-- ==== Sys2Proof/Word.lean ====
section
/-! DEFINITION. The widths of the machine's words (00_scope.md rule R4). -/

namespace Sys2Proof

/-- W, every file register and every 8-bit literal (R4: "data width 8 bits"). -/
abbrev Byte := BitVec 8

/-- A program address; the program counter is 13 bits wide (R22). -/
abbrev ProgAddr := BitVec 13

/-- An instruction word; bit 13 is the most significant bit (R5, R100). -/
abbrev InstrWord := BitVec 14

/-- A data address: two bank bits over the 7-bit `f`, or IRP over FSR (R63, R64). -/
abbrev DataAddr := BitVec 9

/-- A file register designator, 0 to 127 (R102). -/
abbrev FileField := BitVec 7

/-- A bit number within a file register, 0 to 7 (R102). -/
abbrev BitField := BitVec 3

end Sys2Proof
end

