-- ==== Sys2Proof/Config.lean ====
section
/-! DEFINITION. What an implementation fixes: the register addresses and bit positions the spec adopts
(00_scope.md section 4, 92_eei_decisions.md D3, D6, D7), the record of the parameters the spec leaves
OPEN, and the free values. PRESUMED entries rest on the spec's own "general knowledge" marks. -/

namespace Sys2Proof

namespace Config

/-! ### Addresses of the special function registers (D6, log entry 1).
Those of INDF, PCL, STATUS, FSR, PCLATH and INTCON are offsets within every bank. -/

/-- PRESUMED (D6). -/
abbrev addrIndf : Nat := 0x00
/-- PRESUMED (D6). -/
abbrev addrTmr0 : Nat := 0x01
/-- The one address the source states (R4: "Address of PCL = 0x02"). -/
abbrev addrPcl : Nat := 0x02
/-- PRESUMED (D6). -/
abbrev addrStatus : Nat := 0x03
/-- PRESUMED (D6). -/
abbrev addrFsr : Nat := 0x04
/-- PRESUMED (D6). -/
abbrev addrPortA : Nat := 0x05
/-- PRESUMED (D6). -/
abbrev addrPortB : Nat := 0x06
/-- PRESUMED (D6). -/
abbrev addrPortC : Nat := 0x07
/-- PRESUMED (D6). -/
abbrev addrPclath : Nat := 0x0A
/-- PRESUMED (D6). -/
abbrev addrIntcon : Nat := 0x0B
/-- PRESUMED (D6). -/
abbrev addrOptionReg : Nat := 0x81
/-- PRESUMED (D6). -/
abbrev addrTrisA : Nat := 0x85
/-- PRESUMED (D6). -/
abbrev addrTrisB : Nat := 0x86
/-- PRESUMED (D6). -/
abbrev addrTrisC : Nat := 0x87

/-! ### Bits of STATUS, INTCON and OPTION_REG (R31, R40, R41, D7, log entry 2). -/

/-- PRESUMED (D7). -/
abbrev bitC : Nat := 0
/-- PRESUMED (D7). -/
abbrev bitDC : Nat := 1
/-- From the source: `CLRF STATUS` leaves 0000 0100b (R31). -/
abbrev bitZ : Nat := 2
/-- PRESUMED (D7). Active low. -/
abbrev bitPD : Nat := 3
/-- PRESUMED (D7). Active low. -/
abbrev bitTO : Nat := 4
/-- PRESUMED (D7). -/
abbrev bitRP0 : Nat := 5
/-- PRESUMED (D7). -/
abbrev bitRP1 : Nat := 6
/-- PRESUMED (D7). -/
abbrev bitIRP : Nat := 7
/-- From the source: "GIE (INTCON<7>)" (R40). -/
abbrev bitGIE : Nat := 7
/-- PRESUMED (R41): PSA, 1 = the prescaler is assigned to the WDT, 0 = to Timer0. -/
abbrev bitPSA : Nat := 3

/-- The mask of STATUS bits a file write changes when TO and PD are writable: the source's example (D10). -/
abbrev statusMaskAll : Byte := 0xFF
/-- The mask when TO and PD keep their value (D10, PRESUMED). -/
abbrev statusMaskKeepsToPd : Byte := 0xE7

/-! ### Free values: no body, so nothing about them can be proved (log entry 19). -/

/-- A byte the spec leaves unknown (registers after a reset that is not power-on). -/
opaque freeByte : Nat → Byte
/-- A 13-bit stack entry the spec leaves unknown (R30, U2). -/
opaque freeAddr : Nat → ProgAddr

end Config

/-- The ports whose TRIS the `TRIS` instruction reaches (R191) and whose addresses D6 gives. DESIGN CHOICE (log entry 4):
no other port has a value here, the ports D and E of R191 among them; R43 leaves further ports open ("others the source
does not name"), and the spec gives no address of one. -/
inductive PortId where
  | a
  | b
  | c
deriving DecidableEq, Repr

/-- STACK_POLICY of D4. -/
inductive StackPolicy where
  /-- The model stops on a push when full and a pop when empty. -/
  | fault
  /-- A circular buffer: a push on a full stack overwrites the oldest entry, a pop of an empty one returns the
  slot's content. -/
  | wrap
deriving DecidableEq, Repr

/-- What an access to a data address with nothing implemented does (R65 (c), D9). -/
inductive UnimplementedPolicy where
  /-- It reads 0x00 and ignores a write. -/
  | readsZero
  /-- It stops the model. -/
  | refuses
deriving DecidableEq, Repr

/-- A run of data addresses that hold general purpose bytes. -/
structure RamRange where
  base : Nat
  size : Nat
deriving DecidableEq, Repr

/-- A run of data addresses that are another name of the run from `target` (R65 (b), D9). -/
structure Mirror where
  base   : Nat
  size   : Nat
  target : Nat
deriving DecidableEq, Repr

/-- The parameters of 00_scope.md section 4 that the spec leaves OPEN, fixed for one machine. They stand in
`State` so that a statement about every state is a statement about every device (log entry 27). -/
structure Device where
  /-- HAS_OPTION (D13). -/
  hasOption         : Bool
  /-- HAS_TRIS (D13). -/
  hasTris           : Bool
  /-- The ports the device has (R43, R191: a `TRIS` for a port the device lacks is reserved). -/
  ports             : List PortId
  /-- STACK_DEPTH (R30, D3): how many entries the return stack has, at least one (log entry 7). -/
  stackDepth        : Nat
  /-- STACK_POLICY (D4). -/
  stackPolicy       : StackPolicy
  /-- STATUS_WR_MASK (D10): does a file write to STATUS change TO and PD? -/
  toPdWritable      : Bool
  /-- DATA_MAP (D9): the general purpose bytes. -/
  ram               : List RamRange
  /-- DATA_MAP (D9): further mirroring. -/
  mirrors           : List Mirror
  /-- What an unimplemented address does (D9). -/
  unimplemented     : UnimplementedPolicy
  /-- PROG_WORDS (D5). -/
  progWords         : Nat
  /-- Is the prescaler's assignment read from OPTION_REG<3> (R41), or not tracked (D15 (c))? -/
  prescalerFromPsa  : Bool
  /-- RESET_VECTOR (D11). -/
  resetVector       : ProgAddr
  /-- INT_VECTOR (D12). -/
  intVector         : ProgAddr
deriving DecidableEq, Repr

namespace Config

/-- The device a model is reset on. Where the spec leaves a parameter OPEN with a choice between an
effect and a stop, the effect is taken (log entries 4, 5, 8, 9, 10, 15, 16; DESIGN CHOICE). STACK_DEPTH is the
spec's default 8 (D3, PRESUMED, log entry 7). -/
def defaultDevice : Device where
  hasOption        := true
  hasTris          := true
  ports            := [.a, .b, .c]
  stackDepth       := 8
  stackPolicy      := .wrap
  toPdWritable     := true
  ram              := [⟨0x20, 0x60⟩, ⟨0xA0, 0x60⟩]
  mirrors          := []
  unimplemented    := .readsZero
  progWords        := 8192
  prescalerFromPsa := true
  resetVector      := 0x0000
  intVector        := 0x0004

/-- The device with the spec's stopping defaults (D4 `fault`, D9 refuse, D13 (true, false)). -/
def strictDevice : Device :=
  { defaultDevice with hasTris := false, stackPolicy := .fault, unimplemented := .refuses }

end Config
end Sys2Proof
end

