-- ==== Sys2Proof/Syntax.lean ====
section
/-! DEFINITION. The instructions: one constructor for each mnemonic of spec/opcode_table.json, with the
operand fields of rule R102. The 20 RESERVED rows of the table are the one constructor `reserved`, which
keeps the word; the three TRIS rows are `tris` with their port number. -/

namespace Sys2Proof

/-- The destination designator `d` (R130): 0 stores in W, 1 in the file register. -/
inductive Dest where
  | w
  | file
deriving DecidableEq, Repr

/-- The instruction set of rule R104. -/
inductive Instr where
  /-- `ADDWF f,d` (R132) -/
  | addwf (f : FileField) (d : Dest)
  /-- `ANDWF f,d` (R133) -/
  | andwf (f : FileField) (d : Dest)
  /-- `CLRF f` (R134) -/
  | clrf (f : FileField)
  /-- `CLRW` (R135) -/
  | clrw
  /-- `COMF f,d` (R136) -/
  | comf (f : FileField) (d : Dest)
  /-- `DECF f,d` (R137) -/
  | decf (f : FileField) (d : Dest)
  /-- `DECFSZ f,d` (R138) -/
  | decfsz (f : FileField) (d : Dest)
  /-- `INCF f,d` (R139) -/
  | incf (f : FileField) (d : Dest)
  /-- `INCFSZ f,d` (R140) -/
  | incfsz (f : FileField) (d : Dest)
  /-- `IORWF f,d` (R141) -/
  | iorwf (f : FileField) (d : Dest)
  /-- `MOVF f,d` (R142) -/
  | movf (f : FileField) (d : Dest)
  /-- `MOVWF f` (R143) -/
  | movwf (f : FileField)
  /-- `NOP` (R144) -/
  | nop
  /-- `RLF f,d` (R145) -/
  | rlf (f : FileField) (d : Dest)
  /-- `RRF f,d` (R146) -/
  | rrf (f : FileField) (d : Dest)
  /-- `SUBWF f,d` (R147) -/
  | subwf (f : FileField) (d : Dest)
  /-- `SWAPF f,d` (R148) -/
  | swapf (f : FileField) (d : Dest)
  /-- `XORWF f,d` (R149) -/
  | xorwf (f : FileField) (d : Dest)
  /-- `BCF f,b` (R161) -/
  | bcf (f : FileField) (b : BitField)
  /-- `BSF f,b` (R162) -/
  | bsf (f : FileField) (b : BitField)
  /-- `BTFSC f,b` (R163) -/
  | btfsc (f : FileField) (b : BitField)
  /-- `BTFSS f,b` (R164) -/
  | btfss (f : FileField) (b : BitField)
  /-- `ADDLW k` (R171) -/
  | addlw (k : Byte)
  /-- `ANDLW k` (R172) -/
  | andlw (k : Byte)
  /-- `CALL k` (R173) -/
  | call (k : BitVec 11)
  /-- `CLRWDT` (R174) -/
  | clrwdt
  /-- `GOTO k` (R175) -/
  | goto (k : BitVec 11)
  /-- `IORLW k` (R176) -/
  | iorlw (k : Byte)
  /-- `MOVLW k` (R177) -/
  | movlw (k : Byte)
  /-- `RETFIE` (R178) -/
  | retfie
  /-- `RETLW k` (R179) -/
  | retlw (k : Byte)
  /-- `RETURN` (R180) -/
  | ret
  /-- `SLEEP` (R181) -/
  | sleep
  /-- `SUBLW k` (R182) -/
  | sublw (k : Byte)
  /-- `XORLW k` (R183) -/
  | xorlw (k : Byte)
  /-- `OPTION` (R190) -/
  | option
  /-- `TRIS f` (R191), `f` the 3-bit port number 5, 6 or 7 -/
  | tris (f : BitVec 3)
  /-- A reserved word (R107): no instruction -/
  | reserved (word : InstrWord)
deriving DecidableEq, Repr

end Sys2Proof
end

