-- ==== Sys2Proof/Machine/State.lean ====
section
/-! DEFINITION. The machine's state as plain data, why a step may stop, and the state after power-on reset
(10_state.md; INVENTORY.md lists every field with its rule). -/

namespace Sys2Proof.Machine

/-- Why the model stops with a fault. None is a trap of the hardware, which has none (R200, R201). All are
safe: the model stops where the hardware does something. -/
inductive Fault where
  /-- Raised by the fetch: program memory holds no word at this address (R24, R25, D5, U12). Safe. -/
  | noProgramWord (address : ProgAddr)
  /-- Raised by `CALL` and by interrupt entry, only where STACK_POLICY is `fault`: a push while
  STACK_DEPTH entries are held (R30, D4, U2). Safe. -/
  | stackOverflow
  /-- Raised by `RETURN`, `RETLW`, `RETFIE`, only where STACK_POLICY is `fault`: a pop while no entry is
  held (R30, D4, U2). Safe. -/
  | stackUnderflow
  /-- Raised by a file register access, only on a device that refuses unimplemented addresses: nothing is
  implemented at this data address (R65, D9, U5). Safe. -/
  | unimplementedAddress (address : Nat)
deriving DecidableEq, Repr

/-- Why the model refuses to give an instruction a meaning. All are safe. -/
inductive Refusal where
  /-- An instruction the model does not cover; no arm of `exec` answers with it. Safe. -/
  | notModelled (mnemonic : String)
  /-- Raised by `reserved`, and by `OPTION` and `TRIS` on a device without them: "Use of any reserved
  opcode may cause unexpected operation" (R107, R201, U1, U7). Safe. -/
  | reservedOpcode (word : InstrWord)
  /-- Raised by `DECFSZ PCL,1` and `INCFSZ PCL,1` when the result is 0: a jump and a skip at once, which
  the source never combines (R24, U6). Safe. -/
  | skipAndJump
deriving DecidableEq, Repr

/-- An I/O port (R43, R72): the data latch and the direction register, which the program writes, and the
pin side, which only the environment changes (PinOracle, D14; log entry 14). -/
structure PortRegs where
  /-- The data latch, written by every file write to the port. -/
  latch  : Byte
  /-- TRIS: a 1 makes the pin an input. -/
  tris   : Byte
  /-- The level the outside world puts on each pin. -/
  level  : Byte
  /-- Output pins whose level the outside world overrides ("adverse load"). -/
  load   : Byte
  /-- Pins configured as analog inputs, which read 0. -/
  analog : Byte
deriving DecidableEq, Repr

/-- What the device does to the core's registers by itself, between two instructions (R204, D15 (b);
log entry 25). -/
inductive DeviceEvent where
  /-- The pins of a port change. -/
  | pins (port : PortId) (level load analog : Byte)
  /-- TMR0 has counted to `value` (R210). -/
  | timer0 (value : Byte)
  /-- Interrupt flag bits are set and cleared; GIE is not one of them (R202, R204). DESIGN CHOICE (log entry 25):
  the spec does not say which of INTCON<6:0> are flag bits (D6), so an event may name any of the seven. -/
  | intconFlags (set clear : Byte)
  /-- The Watchdog Timer has counted to `count` (R44). -/
  | watchdog (count : Byte)
  /-- The prescaler has counted to `count` (R44, R210). -/
  | prescaler (count : Byte)
deriving DecidableEq, Repr

/-- What the environment does at one instruction boundary (D14 to D16). -/
structure Boundary where
  events : List DeviceEvent
  /-- IrqOracle: an enabled interrupt source is pending (R202). -/
  irq    : Bool
  /-- WdtOracle: the watchdog has timed out (R209). -/
  wdt    : Bool
  /-- The external reset pin resets the device (R230). -/
  mclr   : Bool
deriving DecidableEq, Repr

/-- A boundary at which nothing happens (the default of D15 and D16). -/
def Boundary.quiet : Boundary := ⟨[], false, false, false⟩

/-- The state of the machine. -/
structure State where
  /-- W (R20). -/
  w         : Byte
  /-- The address of the instruction about to execute (R8, R22). -/
  pc        : ProgAddr
  /-- PCLATH<4:0>; bits 7:5 are not implemented (R27). -/
  pclath    : BitVec 5
  /-- TOS, the top slot of the return stack (R29). -/
  tos       : ProgAddr
  /-- The stack's other slots from the one below TOS down, STACK_DEPTH - 1 of them (R29, R30). The circle of D4
  is kept turned so that TOS comes first, which is why it needs no pointer (log entry 7). -/
  below     : List ProgAddr
  /-- How many pushed entries the stack holds (R30). -/
  held      : Nat
  /-- STATUS (R31). -/
  status    : Byte
  /-- FSR (R39). -/
  fsr       : Byte
  /-- INTCON (R40). -/
  intcon    : Byte
  /-- OPTION_REG (R41). -/
  optionReg : Byte
  /-- TMR0 (R42). -/
  tmr0      : Byte
  /-- PORTA and TRISA (R43). -/
  portA     : PortRegs
  /-- PORTB and TRISB (R43). -/
  portB     : PortRegs
  /-- PORTC and TRISC (R43). -/
  portC     : PortRegs
  /-- The general purpose bytes of data memory, by 9-bit data address, in canonical form (R62, R65). -/
  ram       : List Host.Cell
  /-- Program memory: 14-bit words by 13-bit address, in canonical form (R61, D5). -/
  program   : List (Nat × InstrWord)
  /-- The Watchdog Timer counter (R44). -/
  wdt       : Byte
  /-- The prescaler count (R44, R71). -/
  psc       : Byte
  /-- SLEEP mode (R45). -/
  asleep    : Bool
  /-- The MODEL's own: what the environment does at the coming boundaries, the next one first; nothing
  once the list is empty (D14 to D16; log entry 13). -/
  inputs    : List Boundary
  /-- The MODEL's own: the OPEN parameters of the device (00_scope.md section 4; log entry 27). -/
  dev       : Device
  /-- The MODEL's own: how many free values have been drawn (log entry 19). -/
  draws     : Nat
deriving DecidableEq, Repr

/-- A port after power-on: all pins inputs (R47); latch and pin levels DESIGN CHOICE 0 (log entries 14, 17). -/
def PortRegs.reset : PortRegs := ⟨0x00, 0xFF, 0x00, 0x00, 0x00⟩

/-- The machine after power-on reset: the table of rule R47. Where it says "unknown" the value is DESIGN
CHOICE 0 (log entries 17, 18). -/
def State.reset : State where
  w         := 0x00
  pc        := Config.defaultDevice.resetVector
  pclath    := 0x00
  tos       := 0x0000
  below     := List.replicate (Config.defaultDevice.stackDepth - 1) 0x0000
  held      := 0
  status    := 0x18
  fsr       := 0x00
  intcon    := 0x00
  optionReg := 0xFF
  tmr0      := 0x00
  portA     := PortRegs.reset
  portB     := PortRegs.reset
  portC     := PortRegs.reset
  ram       := []
  program   := []
  wdt       := 0
  psc       := 0
  asleep    := false
  inputs    := []
  dev       := Config.defaultDevice
  draws     := 0

/-- The outcome of a step or of an instruction. -/
abbrev Result := Host.Outcome State Fault Refusal

end Sys2Proof.Machine
end

