-- ==== Sys2Proof/Machine/Flags.lean ====
section
/-! DEFINITION. The flags of STATUS (10_state.md rules R31 to R37) and the arithmetic and logic that sets
them (40_byte_oriented.md rule R131 and the pseudocode of each instruction). -/

namespace Sys2Proof.Machine

/-! ### Single bits of a byte -/

/-- The byte with one bit given a value. -/
def setBit (v : Byte) (i : Nat) (b : Bool) : Byte :=
  if b then v ||| (1#8 <<< i) else v &&& ~~~(1#8 <<< i)

/-- C (R32). -/
def State.flagC (s : State) : Bool := s.status.getLsbD Config.bitC
/-- DC (R33). -/
def State.flagDC (s : State) : Bool := s.status.getLsbD Config.bitDC
/-- Z (R34). -/
def State.flagZ (s : State) : Bool := s.status.getLsbD Config.bitZ
/-- PD, active low (R35). -/
def State.flagPD (s : State) : Bool := s.status.getLsbD Config.bitPD
/-- TO, active low (R35). -/
def State.flagTO (s : State) : Bool := s.status.getLsbD Config.bitTO
/-- RP0 (R31). -/
def State.rp0 (s : State) : Bool := s.status.getLsbD Config.bitRP0
/-- RP1 (R31). -/
def State.rp1 (s : State) : Bool := s.status.getLsbD Config.bitRP1
/-- IRP (R31). -/
def State.irp (s : State) : Bool := s.status.getLsbD Config.bitIRP
/-- GIE (R40). -/
def State.gie (s : State) : Bool := s.intcon.getLsbD Config.bitGIE

/-! ### What an instruction does to C, DC and Z -/

/-- The flags an instruction affects, each with its new value; `none` is a flag it does not affect. -/
structure FlagUpdate where
  c  : Option Bool
  dc : Option Bool
  z  : Option Bool
deriving DecidableEq, Repr

/-- "Status Affected: None". -/
def FlagUpdate.unaffected : FlagUpdate := ⟨none, none, none⟩
/-- "Status Affected: Z": set when the result is 0x00 (R34). -/
def FlagUpdate.zeroOf (r : Byte) : FlagUpdate := ⟨none, none, some (decide (r = 0x00))⟩
/-- "Status Affected: C". -/
def FlagUpdate.carry (c : Bool) : FlagUpdate := ⟨some c, none, none⟩
/-- "Status Affected: C, DC, Z". -/
def FlagUpdate.arith (c dc : Bool) (r : Byte) : FlagUpdate := ⟨some c, some dc, some (decide (r = 0x00))⟩

/-- Give a bit a value if there is one to give. -/
def setBitIf (v : Byte) (i : Nat) : Option Bool → Byte
  | none => v
  | some b => setBit v i b

/-- STATUS with the affected flags at their computed values, the other bits kept (R70 step 4). -/
def FlagUpdate.apply (u : FlagUpdate) (status : Byte) : Byte :=
  setBitIf (setBitIf (setBitIf status Config.bitC u.c) Config.bitDC u.dc) Config.bitZ u.z

/-- The last thing an instruction does: set the flags it affects (R36, R70). -/
def State.withFlags (s : State) (u : FlagUpdate) : State := { s with status := u.apply s.status }

/-! ### Results with their flags -/

/-- What an operation computes: the value for the destination and the flags. -/
structure Alu where
  value : Byte
  flags : FlagUpdate
deriving DecidableEq, Repr

/-- The low digit of a byte. -/
def lowDigit (a : Byte) : Nat := a.toNat % 16

/-- `add8` of R131; DC is PRESUMED (R33, D7). -/
def add8 (a b : Byte) : Alu :=
  let sum := a.toNat + b.toNat
  let r := BitVec.ofNat 8 sum
  ⟨r, .arith (decide (256 ≤ sum)) (decide (16 ≤ lowDigit a + lowDigit b)) r⟩

/-- `sub8` of R131, `a - b` by the 2's complement method; DC is PRESUMED (R33, D7). -/
def sub8 (a b : Byte) : Alu :=
  let sum := a.toNat + (~~~b).toNat + 1
  let r := BitVec.ofNat 8 sum
  ⟨r, .arith (decide (256 ≤ sum)) (decide (16 ≤ lowDigit a + lowDigit (~~~b) + 1)) r⟩

/-- A result that affects Z and nothing else. -/
def resultZ (r : Byte) : Alu := ⟨r, .zeroOf r⟩
/-- A result that affects no flag. -/
def resultPlain (r : Byte) : Alu := ⟨r, .unaffected⟩

/-- R133, R172. -/
def and8 (a b : Byte) : Alu := resultZ (a &&& b)
/-- R141, R176. -/
def or8 (a b : Byte) : Alu := resultZ (a ||| b)
/-- R149, R183. -/
def xor8 (a b : Byte) : Alu := resultZ (a ^^^ b)
/-- R136. -/
def com8 (a : Byte) : Alu := resultZ (~~~a)
/-- R139: modulo 256, Z only. -/
def inc8 (a : Byte) : Alu := resultZ (a + 1)
/-- R137 (DEDUCED from `DECFSZ` and `INCF`, log entry 29): modulo 256, Z only. -/
def dec8 (a : Byte) : Alu := resultZ (a - 1)
/-- R142. -/
def mov8 (a : Byte) : Alu := resultZ a
/-- R145: `v[6:0] : c`, C is the old bit 7. -/
def rotateLeft8 (a : Byte) (c : Bool) : Alu :=
  ⟨(a.extractLsb' 0 7 ++ BitVec.ofBool c : BitVec 8), .carry (a.getLsbD 7)⟩
/-- R146: `c : v[7:1]`, C is the old bit 0. -/
def rotateRight8 (a : Byte) (c : Bool) : Alu :=
  ⟨(BitVec.ofBool c ++ a.extractLsb' 1 7 : BitVec 8), .carry (a.getLsbD 0)⟩
/-- R148: `v[3:0] : v[7:4]`. -/
def swap8 (a : Byte) : Alu :=
  resultPlain (a.extractLsb' 0 4 ++ a.extractLsb' 4 4 : BitVec 8)

end Sys2Proof.Machine
end

