-- ==== Sys2Proof/Machine/Memory.lean ====
section
/-! DEFINITION. The two sparse memories (20_memory.md section 1): data memory as bytes, program memory as
14-bit words, each a list of (address, content) pairs with the addresses strictly rising. -/

namespace Sys2Proof.Machine

/-! ### Lists of cells -/

/-- The content listed at an address. -/
def cellLookup {α : Type} (a : Nat) : List (Nat × α) → Option α
  | [] => none
  | (b, v) :: rest => if a = b then some v else cellLookup a rest

/-- List a content at an address, at its place in the order. -/
def cellInsert {α : Type} (a : Nat) (v : α) : List (Nat × α) → List (Nat × α)
  | [] => [(a, v)]
  | (b, u) :: rest =>
    if a < b then (a, v) :: (b, u) :: rest
    else if a = b then (a, v) :: rest
    else (b, u) :: cellInsert a v rest

/-- List nothing at an address. -/
def cellErase {α : Type} (a : Nat) : List (Nat × α) → List (Nat × α)
  | [] => []
  | (b, u) :: rest => if a = b then cellErase a rest else (b, u) :: cellErase a rest

/-- The addresses rise strictly. -/
abbrev cellsRise {α : Type} (m : List (Nat × α)) : Prop := m.Pairwise (fun x y => x.1 < y.1)

/-! ### Data memory (R62): the general purpose bytes -/

/-- DESIGN CHOICE: what a byte nothing has written reads as; the spec says unknown (R21, R47; log entry 18). -/
def Memory.unwritten : Byte := 0x00

/-- One byte of data memory. -/
def Memory.read (m : List Host.Cell) (a : Nat) : Byte := (cellLookup a m).getD Memory.unwritten

/-- Store one byte; a byte equal to what an unlisted address reads as is not listed. -/
def Memory.write (m : List Host.Cell) (a : Nat) (v : Byte) : List Host.Cell :=
  if v = Memory.unwritten then cellErase a m else cellInsert a v m

/-- The canonical form: addresses strictly rising and below 512 (R63), no entry equal to an unlisted byte. -/
abbrev Memory.wf (m : List Host.Cell) : Prop :=
  cellsRise m ∧ ∀ c ∈ m, c.1 < 512 ∧ c.2 ≠ Memory.unwritten

/-! ### Program memory (R61): a partial map from 13-bit addresses to words (D5) -/

/-- The word at a program address, if there is one. -/
def Program.read (m : List (Nat × InstrWord)) (a : ProgAddr) : Option InstrWord := cellLookup a.toNat m

/-- Place a word in program memory: the loader's operation, no instruction's (R61, log entry 26). -/
def Program.place (m : List (Nat × InstrWord)) (a : ProgAddr) (w : InstrWord) : List (Nat × InstrWord) :=
  cellInsert a.toNat w m

/-- The canonical form: addresses strictly rising and below 8192 (R61). -/
abbrev Program.wf (m : List (Nat × InstrWord)) : Prop := cellsRise m ∧ ∀ c ∈ m, c.1 < 8192

end Sys2Proof.Machine
end

