-- ==== Sys2Proof/Machine/Operands.lean ====
section
/-! DEFINITION. The file register access functions `x[f]` and `x[f] <- v` of 20_memory.md rules R62 to R72:
forming the data address, finding what stands there, reading it and writing it. -/

namespace Sys2Proof.Machine

/-! ### Data addresses (R63, R64, D8: PRESUMED, log entry 3) -/

/-- Direct addressing: `STATUS.RP1 : STATUS.RP0 : f` (R63). -/
def State.directAddr (s : State) (f : FileField) : DataAddr :=
  BitVec.ofBool s.rp1 ++ BitVec.ofBool s.rp0 ++ f

/-- Indirect addressing: `STATUS.IRP : FSR` (R64). -/
def State.indirectAddr (s : State) : DataAddr := BitVec.ofBool s.irp ++ s.fsr

/-! ### What stands at a data address (R65, D6, D9) -/

/-- What a file register designator designates. -/
inductive FileReg where
  /-- INDF through itself: no register at all (R65 (d)). -/
  | indfSelf
  | tmr0
  | pcl
  | status
  | fsr
  | port (p : PortId)
  | pclath
  | intcon
  | optionReg
  | tris (p : PortId)
  /-- A general purpose byte, by its data address. -/
  | ram (a : Nat)
  /-- Nothing implemented. -/
  | unimplemented (a : Nat)
deriving DecidableEq, Repr

/-- Does a run of general purpose bytes cover the address? -/
def rangeCovers (r : RamRange) (a : Nat) : Bool := decide (r.base ≤ a) && decide (a < r.base + r.size)

/-- Does a mirror cover the address? -/
def mirrorCovers (m : Mirror) (a : Nat) : Bool := decide (m.base ≤ a) && decide (a < m.base + m.size)

/-- Is the address one of the device's general purpose bytes (DATA_MAP, D9)? -/
def deviceHasRam (dev : Device) (a : Nat) : Bool := decide (a < 512) && dev.ram.any (fun r => rangeCovers r a)

/-- The address the device's own mirroring gives (R65 (b)): by the first mirror that covers it, once. -/
def deviceMirror (dev : Device) (a : DataAddr) : DataAddr :=
  match dev.mirrors.find? (fun m => mirrorCovers m a.toNat) with
  | some m => BitVec.ofNat 9 (m.target + (a.toNat - m.base))
  | none => a

/-- Is the address at the offset of a register common to all banks (R65 (b))? -/
def isCommon (a : DataAddr) : Bool :=
  [Config.addrIndf, Config.addrPcl, Config.addrStatus, Config.addrFsr, Config.addrPclath,
    Config.addrIntcon].contains (a.toNat % 128)

/-- `canon` (R65 (b)): a register common to all banks stands for itself, any other address for what the device's
mirroring makes of it. -/
def canon (dev : Device) (a : DataAddr) : DataAddr := if isCommon a then a else deviceMirror dev a

/-- A port or its TRIS register, where the device has the port. DESIGN CHOICE (log entry 4): what stands at these
addresses on a device without the port D9 leaves OPEN with the rest of DATA_MAP; the model has nothing there, even where
`Device.ram` lists the address. -/
def portReg (dev : Device) (p : PortId) (r : FileReg) (a : Nat) : FileReg :=
  if dev.ports.contains p then r else .unimplemented a

/-- What stands at an address that is no register common to all banks (D6, D9): the registers of D6 before the general
purpose bytes (DESIGN CHOICE, log entry 4). -/
def locateBanked (dev : Device) (a : Nat) : FileReg :=
  if a = Config.addrTmr0 then .tmr0
  else if a = Config.addrPortA then portReg dev .a (.port .a) a
  else if a = Config.addrPortB then portReg dev .b (.port .b) a
  else if a = Config.addrPortC then portReg dev .c (.port .c) a
  else if a = Config.addrOptionReg then .optionReg
  else if a = Config.addrTrisA then portReg dev .a (.tris .a) a
  else if a = Config.addrTrisB then portReg dev .b (.tris .b) a
  else if a = Config.addrTrisC then portReg dev .c (.tris .c) a
  else if deviceHasRam dev a then .ram a
  else .unimplemented a

/-- The map at an address (R65): INDF, PCL, STATUS, FSR, PCLATH and INTCON by their offset in every bank; anything
else by its address. -/
def locateAt (dev : Device) (a : DataAddr) : FileReg :=
  let offset := a.toNat % 128
  if offset = Config.addrIndf then .indfSelf
  else if offset = Config.addrPcl then .pcl
  else if offset = Config.addrStatus then .status
  else if offset = Config.addrFsr then .fsr
  else if offset = Config.addrPclath then .pclath
  else if offset = Config.addrIntcon then .intcon
  else locateBanked dev a.toNat

/-- `canon` and the map (R65, R66 step 2). -/
def locate (dev : Device) (a : DataAddr) : FileReg := locateAt dev (canon dev a)

/-- The data address of the operand `f` (R66 step 1): through FSR when `f` is INDF. -/
def State.operandAddr (s : State) (f : FileField) : DataAddr :=
  if f.toNat = Config.addrIndf then s.indirectAddr else s.directAddr f

/-- Steps 1 and 2 of R66 and R67: what the operand `f` designates, with the STATUS and FSR held now. -/
def State.resolve (s : State) (f : FileField) : FileReg := locate s.dev (s.operandAddr f)

/-! ### Reading (R66) -/

/-- The next instruction in sequence: `(pc + 1) mod 2^13` (R24, D2, log entry 21). -/
def State.npc (s : State) : ProgAddr := s.pc + 1

/-- A port's registers. -/
def State.port (s : State) : PortId → PortRegs
  | .a => s.portA
  | .b => s.portB
  | .c => s.portC

/-- The state with a port's registers replaced. -/
def State.setPort (s : State) (p : PortId) (r : PortRegs) : State :=
  match p with
  | .a => { s with portA := r }
  | .b => { s with portB := r }
  | .c => { s with portC := r }

/-- The value on a port's pins (R72, D14): an analog pin reads 0; an input pin, or an output pin under an
adverse load, reads the outside level; any other output pin reads its latch bit. -/
def PortRegs.pins (r : PortRegs) : Byte :=
  let outside := r.tris ||| r.load
  ((r.level &&& outside) ||| (r.latch &&& ~~~outside)) &&& ~~~r.analog

/-- Steps 3 to 6 of R66. -/
def State.readReg (s : State) : FileReg → Byte
  | .indfSelf => 0x00
  | .tmr0 => s.tmr0
  | .pcl => s.npc.extractLsb' 0 8
  | .status => s.status
  | .fsr => s.fsr
  | .port p => (s.port p).pins
  | .pclath => s.pclath.setWidth 8
  | .intcon => s.intcon
  | .optionReg => s.optionReg
  | .tris p => (s.port p).tris
  | .ram a => Memory.read s.ram a
  | .unimplemented _ => 0x00

/-! ### Writing (R67) -/

/-- Is the prescaler assigned to the WDT? PSA, OPTION_REG<3>, PRESUMED (R41, log entry 15). -/
def State.psaIsWdt (s : State) : Bool := s.optionReg.getLsbD Config.bitPSA

/-- The prescaler count after a write to TMR0 (R71): cleared if assigned to Timer0; cleared by every such
write where the assignment is not tracked (D15 (c)). -/
def State.pscAfterTmr0Write (s : State) : Byte :=
  if s.dev.prescalerFromPsa && s.psaIsWdt then s.psc else 0

/-- The prescaler count after `CLRWDT` or `SLEEP` (R174, R181): cleared if assigned to the WDT, or if the
assignment is not tracked. -/
def State.pscAfterClear (s : State) : Byte :=
  if s.dev.prescalerFromPsa && !s.psaIsWdt then s.psc else 0

/-- STATUS_WR_MASK (R70, D10, log entry 10). -/
def statusMask (dev : Device) : Byte :=
  if dev.toPdWritable then Config.statusMaskAll else Config.statusMaskKeepsToPd

/-- Steps 3 to 9 of R67. A write to PCL sets the address the next instruction is fetched from (R69). -/
def State.writeReg (s : State) (r : FileReg) (v : Byte) : State :=
  match r with
  | .indfSelf => s
  | .tmr0 => { s with tmr0 := v, psc := s.pscAfterTmr0Write }
  | .pcl => { s with pc := s.pclath ++ v }
  | .status => { s with status := (v &&& statusMask s.dev) ||| (s.status &&& ~~~statusMask s.dev) }
  | .fsr => { s with fsr := v }
  | .port p => s.setPort p { s.port p with latch := v }
  | .pclath => { s with pclath := v.extractLsb' 0 5 }
  | .intcon => { s with intcon := v }
  | .optionReg => { s with optionReg := v }
  | .tris p => s.setPort p { s.port p with tris := v }
  | .ram a => { s with ram := Memory.write s.ram a v }
  | .unimplemented _ => s

/-- `dest(f, d) <- v` (R130), the register already found. -/
def State.writeDest (s : State) (r : FileReg) (d : Dest) (v : Byte) : State :=
  match d with
  | .w => { s with w := v }
  | .file => s.writeReg r v

/-! ### The stop an access can make (R65, D9) -/

/-- Can the device access this register, or does it refuse unimplemented addresses? -/
def deviceAllows (dev : Device) : FileReg → Bool
  | .unimplemented _ => dev.unimplemented == .readsZero
  | .indfSelf | .tmr0 | .pcl | .status | .fsr | .port _ | .pclath | .intcon | .optionReg | .tris _
  | .ram _ => true

/-- The data address a stop names. -/
def FileReg.address : FileReg → Nat
  | .unimplemented a => a
  | .indfSelf | .tmr0 | .pcl | .status | .fsr | .port _ | .pclath | .intcon | .optionReg | .tris _
  | .ram _ => 0

/-- Run an access to the file register `f`: find the register, stop where the device refuses it, go on with
it otherwise. -/
def State.access (s : State) (f : FileField) (k : FileReg → Result) : Result :=
  if deviceAllows s.dev (s.resolve f) then k (s.resolve f)
  else .fault (.unimplementedAddress (s.resolve f).address)

end Sys2Proof.Machine
end

