-- ==== Sys2Proof/Machine/Ops.lean ====
section
/-! DEFINITION. The operations the instructions share: the advance of the program counter and skips (R24,
R151), the return stack (R29, R30), interrupt entry and the return from it (R205, R207), and the shapes of
the byte-oriented, bit-oriented and literal instructions. -/

namespace Sys2Proof.Machine

/-! ### The program counter (R24, R26) -/

/-- The state with the next instruction in sequence as the one to execute. -/
def State.advance (s : State) : State := { s with pc := s.npc }

/-- Discard the next instruction (R151): one more word is passed, without effect. -/
def State.skip (s : State) : State := { s with pc := s.pc + 1 }

/-- `CALL` and `GOTO`: `PCLATH[4:3] : k` (R173, R175). -/
def State.pageTarget (s : State) (k : BitVec 11) : ProgAddr := s.pclath.extractLsb' 3 2 ++ k

/-! ### The return stack (R29, R30, D3, D4) -/

/-- Does a push stop the model? Only under STACK_POLICY `fault`, when the stack is full. -/
def State.pushStops (s : State) : Bool :=
  (s.dev.stackPolicy == .fault) && decide (s.dev.stackDepth ≤ s.held)

/-- Does a pop stop the model? Only under STACK_POLICY `fault`, when the stack is empty. -/
def State.popStops (s : State) : Bool :=
  (s.dev.stackPolicy == .fault) && decide (s.held = 0)

/-- The state with a new top of stack above the former entries; the oldest of STACK_DEPTH slots is overwritten
(`wrap`). -/
def State.pushed (s : State) (v : ProgAddr) : State :=
  { s with
    tos := v
    below := (s.tos :: s.below).take (s.dev.stackDepth - 1)
    held := min s.dev.stackDepth (s.held + 1) }

/-- The state with the top of stack removed: the entry below it is the new TOS, and the slot it stood in keeps its
content, as the last of the circle. -/
def State.popped (s : State) : State :=
  { s with
    tos := s.below.headD s.tos
    below := (s.below ++ [s.tos]).tail
    held := s.held - 1 }

/-- `push(v)` (R29). -/
def State.push (s : State) (v : ProgAddr) (k : State → Result) : Result :=
  if s.pushStops then .fault .stackOverflow else k (s.pushed v)

/-- `pop()` (R29): go on with TOS and the state without it. -/
def State.pop (s : State) (k : ProgAddr → State → Result) : Result :=
  if s.popStops then .fault .stackUnderflow else k s.tos s.popped

/-! ### Interrupts (R205, R207, D12: PRESUMED, log entry 12) -/

/-- The state with GIE at a value. -/
def State.setGie (s : State) (b : Bool) : State := { s with intcon := setBit s.intcon Config.bitGIE b }

/-- Interrupt entry (R205): push the address of the next instruction that would have executed, clear GIE,
continue at INT_VECTOR. Nothing else is saved or changed. -/
def State.takeInterrupt (s : State) : Result :=
  s.push s.pc fun t => .next { t.setGie false with pc := t.dev.intVector }

/-- Return from interrupt (R178, R207): the popped address becomes the pc and GIE is set. -/
def State.returnFromInterrupt (s : State) : Result :=
  s.pop fun v t => .next { t.setGie true with pc := v }

/-- `RETURN` and, after W is loaded, `RETLW` (R179, R180). -/
def State.returnFromCall (s : State) : Result :=
  s.pop fun v t => .next { t with pc := v }

/-! ### The watchdog and SLEEP (R174, R181) -/

/-- TO and PD at given values (R35). -/
def State.setToPd (s : State) (timeOut powerDown : Bool) : State :=
  { s with status := setBit (setBit s.status Config.bitTO timeOut) Config.bitPD powerDown }

/-- `00h → WDT, 0 → WDT prescaler count`, the count only if assigned to the WDT; the assignment is unchanged. -/
def State.clearWatchdog (s : State) : State := { s with wdt := 0, psc := s.pscAfterClear }

/-! ### Shapes of instructions -/

/-- Read-modify-write or read-only (R73): the operand is read, the result goes to `d`, then the affected
flags are set over whatever was written (R70, R130). -/
def State.fileOp (s : State) (f : FileField) (d : Dest) (op : Byte → Alu) : Result :=
  s.access f fun r =>
    let out := op (s.readReg r)
    .next ((s.advance.writeDest r d out.value).withFlags out.flags)

/-- Write only (`CLRF`, `MOVWF`, R73): the operand is not read. -/
def State.fileStore (s : State) (f : FileField) (out : Alu) : Result :=
  s.access f fun r => .next ((s.advance.writeReg r out.value).withFlags out.flags)

/-- `DECFSZ`, `INCFSZ` (R138, R140): the result goes to `d`; when it is 0 the next instruction is skipped.
A result 0 that is itself written to PCL has no meaning (U6, log entry 23). -/
def State.fileSkipOp (s : State) (f : FileField) (d : Dest) (op : Byte → Byte) : Result :=
  s.access f fun r =>
    let v := op (s.readReg r)
    if v ≠ 0x00 then .next (s.advance.writeDest r d v)
    else if d = .file ∧ r = .pcl then .refused .skipAndJump
    else .next (s.advance.writeDest r d v).skip

/-- `BCF`, `BSF` (R160): the whole byte is read, one bit changed, the whole byte written back. -/
def State.bitOp (s : State) (f : FileField) (b : BitField) (value : Bool) : Result :=
  s.access f fun r => .next (s.advance.writeReg r (setBit (s.readReg r) b.toNat value))

/-- `BTFSC`, `BTFSS` (R160): the byte is read, nothing is written, and the next instruction is skipped when
the bit has the given value. -/
def State.bitTest (s : State) (f : FileField) (b : BitField) (skipWhen : Bool) : Result :=
  s.access f fun r =>
    .next (if (s.readReg r).getLsbD b.toNat = skipWhen then s.advance.skip else s.advance)

/-- The literal instructions (R170): W and the flags, no file register. -/
def State.literalOp (s : State) (out : Alu) : Result :=
  .next ({ s.advance with w := out.value }.withFlags out.flags)

end Sys2Proof.Machine
end

