-- ==== Sys2Proof/Machine/BitOriented.lean ====
section
/-! DEFINITION. The bit-oriented file register operations (41_bit_oriented.md). -/

namespace Sys2Proof.Machine

/-- R161: `0 → f<b>`; no flag. -/
def execBcf (f : FileField) (b : BitField) (s : State) : Result := s.bitOp f b false

/-- R162: `1 → f<b>`; no flag. -/
def execBsf (f : FileField) (b : BitField) (s : State) : Result := s.bitOp f b true

/-- R163: skip if `f<b>` is 0; nothing is written. -/
def execBtfsc (f : FileField) (b : BitField) (s : State) : Result := s.bitTest f b false

/-- R164: skip if `f<b>` is 1; nothing is written. -/
def execBtfss (f : FileField) (b : BitField) (s : State) : Result := s.bitTest f b true

end Sys2Proof.Machine
end

