-- ==== Sys2Proof/Machine/ByteOriented.lean ====
section
/-! DEFINITION. The byte-oriented file register operations (40_byte_oriented.md). No flag, cycle or special
operand is treated here: INDF, PCL, STATUS, TMR0 and the ports are the access functions' (R150). -/

namespace Sys2Proof.Machine

/-- R132: `(W) + (f) → destination`; C, DC, Z. -/
def execAddwf (f : FileField) (d : Dest) (s : State) : Result := s.fileOp f d (fun a => add8 s.w a)

/-- R133: `(W) .AND. (f) → destination`; Z. -/
def execAndwf (f : FileField) (d : Dest) (s : State) : Result := s.fileOp f d (fun a => and8 s.w a)

/-- R134: `00h → f, 1 → Z`; the operand is not read. -/
def execClrf (f : FileField) (s : State) : Result := s.fileStore f (resultZ 0x00)

/-- R135: `00h → W, 1 → Z`. -/
def execClrw (s : State) : Result := s.literalOp (resultZ 0x00)

/-- R136: the complement of `(f) → destination`; Z. -/
def execComf (f : FileField) (d : Dest) (s : State) : Result := s.fileOp f d com8

/-- R137: `(f) - 1 → destination`; Z only. -/
def execDecf (f : FileField) (d : Dest) (s : State) : Result := s.fileOp f d dec8

/-- R138: `(f) - 1 → destination; skip if result = 0`; no flag. -/
def execDecfsz (f : FileField) (d : Dest) (s : State) : Result := s.fileSkipOp f d (fun a => a - 1)

/-- R139: `(f) + 1 → destination`; Z only. -/
def execIncf (f : FileField) (d : Dest) (s : State) : Result := s.fileOp f d inc8

/-- R140: `(f) + 1 → destination, skip if result = 0`; no flag. -/
def execIncfsz (f : FileField) (d : Dest) (s : State) : Result := s.fileSkipOp f d (fun a => a + 1)

/-- R141: `(W) .OR. (f) → destination`; Z. -/
def execIorwf (f : FileField) (d : Dest) (s : State) : Result := s.fileOp f d (fun a => or8 s.w a)

/-- R142: `(f) → destination`; Z. -/
def execMovf (f : FileField) (d : Dest) (s : State) : Result := s.fileOp f d mov8

/-- R143: `(W) → f`; no flag; the operand is not read. -/
def execMovwf (f : FileField) (s : State) : Result := s.fileStore f (resultPlain s.w)

/-- R144: nothing but the advance of the program counter. -/
def execNop (s : State) : Result := .next s.advance

/-- R145: rotate left through C. -/
def execRlf (f : FileField) (d : Dest) (s : State) : Result := s.fileOp f d (fun a => rotateLeft8 a s.flagC)

/-- R146: rotate right through C. -/
def execRrf (f : FileField) (d : Dest) (s : State) : Result := s.fileOp f d (fun a => rotateRight8 a s.flagC)

/-- R147: `(f) - (W) → destination`; C, DC, Z. -/
def execSubwf (f : FileField) (d : Dest) (s : State) : Result := s.fileOp f d (fun a => sub8 a s.w)

/-- R148: the nibbles exchanged; no flag. -/
def execSwapf (f : FileField) (d : Dest) (s : State) : Result := s.fileOp f d swap8

/-- R149: `(W) .XOR. (f) → destination`; Z. -/
def execXorwf (f : FileField) (d : Dest) (s : State) : Result := s.fileOp f d (fun a => xor8 s.w a)

end Sys2Proof.Machine
end

