-- ==== Sys2Proof/WellFormed.lean ====
section
/-! DEFINITION. Which terms of `Instr` an instruction word can stand for. Every operand field is as wide as
its encoding (R102), so only `TRIS` and `reserved` can be ill-formed. -/

namespace Sys2Proof

/-- The words of 0x0000 to 0x007F that are instructions (R107 (a)). -/
def lowInstrWords : List InstrWord :=
  [0x0000, 0x0020, 0x0040, 0x0060, 0x0008, 0x0009, 0x0062, 0x0063, 0x0064, 0x0065, 0x0066, 0x0067]

/-- The reserved words of rule R107: (a) 0x0000 to 0x007F less the instructions there, (b) 0x3B00 to 0x3BFF. -/
def isReservedWord (w : InstrWord) : Bool :=
  (decide (w.toNat < 0x80) && !lowInstrWords.contains w) ||
    (decide (0x3B00 ≤ w.toNat) && decide (w.toNat ≤ 0x3BFF))

/-- `TRIS` names port A, B or C by 5, 6 or 7 (R191: "limited to ports A, B and C"). -/
def isTrisOperand (f : BitVec 3) : Bool := decide (5 ≤ f.toNat)

/-- The check every decoded instruction meets. -/
def Instr.wellFormed : Instr → Bool
  | .tris f => isTrisOperand f
  | .reserved w => isReservedWord w
  | .addwf _ _ | .andwf _ _ | .clrf _ | .clrw | .comf _ _ | .decf _ _ | .decfsz _ _ | .incf _ _
  | .incfsz _ _ | .iorwf _ _ | .movf _ _ | .movwf _ | .nop | .rlf _ _ | .rrf _ _ | .subwf _ _
  | .swapf _ _ | .xorwf _ _ | .bcf _ _ | .bsf _ _ | .btfsc _ _ | .btfss _ _ | .addlw _ | .andlw _
  | .call _ | .clrwdt | .goto _ | .iorlw _ | .movlw _ | .retfie | .retlw _ | .ret | .sleep
  | .sublw _ | .xorlw _ | .option => true

end Sys2Proof
end

