-- ==== Sys2Proof/Decode.lean ====
section
/-! DEFINITION. Decoding (rules R102, R105 to R108) and, after it, encoding (R104). -/

namespace Sys2Proof

/-! ### Fields of a word (R102) -/

def fieldF (w : InstrWord) : FileField := w.extractLsb' 0 7
def fieldD (w : InstrWord) : Dest := if w.getLsbD 7 then .file else .w
def fieldB (w : InstrWord) : BitField := w.extractLsb' 7 3
def fieldK8 (w : InstrWord) : Byte := w.extractLsb' 0 8
def fieldK11 (w : InstrWord) : BitVec 11 := w.extractLsb' 0 11

/-! ### Decoding (R105) -/

/-- The words `00 0000 xxxx xxxx`: R105's first case, don't-care bits 6:5 of `NOP` included (R106). -/
def decodeLow (w : InstrWord) : Instr :=
  if w.getLsbD 7 then .movwf (fieldF w)
  else if w.extractLsb' 0 5 = 0b00000#5 then .nop
  else if fieldF w = 0b0001000#7 then .ret
  else if fieldF w = 0b0001001#7 then .retfie
  else if fieldF w = 0b1100010#7 then .option
  else if fieldF w = 0b1100011#7 then .sleep
  else if fieldF w = 0b1100100#7 then .clrwdt
  else if fieldF w = 0b1100101#7 ∨ fieldF w = 0b1100110#7 ∨ fieldF w = 0b1100111#7 then
    .tris (w.extractLsb' 0 3)
  else .reserved w

/-- The words `00 xxxx …`: byte-oriented operations, and `decodeLow`'s (R105). -/
def decodeByte (w : InstrWord) : Instr :=
  match (w.extractLsb' 8 4).toNat with
  | 0 => decodeLow w
  | 1 => if w.getLsbD 7 then .clrf (fieldF w) else .clrw
  | 2 => .subwf (fieldF w) (fieldD w)
  | 3 => .decf (fieldF w) (fieldD w)
  | 4 => .iorwf (fieldF w) (fieldD w)
  | 5 => .andwf (fieldF w) (fieldD w)
  | 6 => .xorwf (fieldF w) (fieldD w)
  | 7 => .addwf (fieldF w) (fieldD w)
  | 8 => .movf (fieldF w) (fieldD w)
  | 9 => .comf (fieldF w) (fieldD w)
  | 10 => .incf (fieldF w) (fieldD w)
  | 11 => .decfsz (fieldF w) (fieldD w)
  | 12 => .rrf (fieldF w) (fieldD w)
  | 13 => .rlf (fieldF w) (fieldD w)
  | 14 => .swapf (fieldF w) (fieldD w)
  | _ => .incfsz (fieldF w) (fieldD w)  -- 15: four bits have no other value

/-- The words `01 xxxx …`: bit-oriented operations (R105). -/
def decodeBit (w : InstrWord) : Instr :=
  match (w.extractLsb' 10 2).toNat with
  | 0 => .bcf (fieldF w) (fieldB w)
  | 1 => .bsf (fieldF w) (fieldB w)
  | 2 => .btfsc (fieldF w) (fieldB w)
  | _ => .btfss (fieldF w) (fieldB w)  -- 3: two bits have no other value

/-- The words `10 xxxx …`: `CALL` and `GOTO` (R105). -/
def decodeJump (w : InstrWord) : Instr :=
  if w.getLsbD 11 then .goto (fieldK11 w) else .call (fieldK11 w)

/-- The words `11 xxxx …`: literal operations, don't-care bits included (R105, R106). -/
def decodeLiteral (w : InstrWord) : Instr :=
  match (w.extractLsb' 8 4).toNat with
  | 0 => .movlw (fieldK8 w)
  | 1 => .movlw (fieldK8 w)
  | 2 => .movlw (fieldK8 w)
  | 3 => .movlw (fieldK8 w)
  | 4 => .retlw (fieldK8 w)
  | 5 => .retlw (fieldK8 w)
  | 6 => .retlw (fieldK8 w)
  | 7 => .retlw (fieldK8 w)
  | 8 => .iorlw (fieldK8 w)
  | 9 => .andlw (fieldK8 w)
  | 10 => .xorlw (fieldK8 w)
  | 11 => .reserved w
  | 12 => .sublw (fieldK8 w)
  | 13 => .sublw (fieldK8 w)
  | 14 => .addlw (fieldK8 w)
  | _ => .addlw (fieldK8 w)  -- 15: four bits have no other value

/-- Rule R105: a total function, one answer for each of the 16384 words. A reserved word is answered by
name, as `.reserved` with the word. -/
def decode (w : InstrWord) : Instr :=
  match (w.extractLsb' 12 2).toNat with
  | 0 => decodeByte w
  | 1 => decodeBit w
  | 2 => decodeJump w
  | _ => decodeLiteral w  -- 3: two bits have no other value

/-- Why a number is no instruction word at all. -/
inductive DecodeReject where
  /-- It does not fit the 14 bits of a word of program memory (R100). -/
  | widerThanAWord
deriving DecidableEq, Repr

/-- Decoding any number whatever: a word where it fits 14 bits, rejected by name where it does not. -/
def decodeNumber (n : Nat) : Except DecodeReject Instr :=
  if n < 2 ^ 14 then .ok (decode (BitVec.ofNat 14 n)) else .error .widerThanAWord

/-- The instruction the decoder reads from bits `w` of a row of the table. Program memory holds whole
14-bit words, so there is no byte order to lay out (R74). -/
def decodeTableWord (nbits w : Nat) : Option Instr :=
  match decodeNumber (w % 2 ^ nbits) with
  | .ok i => some i
  | .error _ => none

/-! ### Encoding (R104); the assembler's form, don't-care bits 0 (R106) -/

def encodeD : Dest → BitVec 1
  | .w => 0#1
  | .file => 1#1

/-- Format BYTE: opcode 13:8, d 7, f 6:0. -/
def encodeByte (opcode : BitVec 6) (d : Dest) (f : FileField) : InstrWord := opcode ++ encodeD d ++ f
/-- Format BYTE1: bits 13:7 fixed, f 6:0. -/
def encodeByte1 (opcode : BitVec 7) (f : FileField) : InstrWord := opcode ++ f
/-- Format BIT: opcode 13:10, b 9:7, f 6:0. -/
def encodeBit (opcode : BitVec 4) (b : BitField) (f : FileField) : InstrWord := opcode ++ b ++ f
/-- Format LIT8: bits 13:8 with the don't-care bits 0, k 7:0. -/
def encodeLit8 (opcode : BitVec 6) (k : Byte) : InstrWord := opcode ++ k
/-- Format LIT11: opcode 13:11, k 10:0. -/
def encodeLit11 (opcode : BitVec 3) (k : BitVec 11) : InstrWord := opcode ++ k

/-- The word of an instruction, from the table of rule R104. -/
def encode : Instr → InstrWord
  | .addwf f d => encodeByte 0b000111#6 d f
  | .andwf f d => encodeByte 0b000101#6 d f
  | .clrf f => encodeByte1 0b0000011#7 f
  | .clrw => 0b00000100000000#14
  | .comf f d => encodeByte 0b001001#6 d f
  | .decf f d => encodeByte 0b000011#6 d f
  | .decfsz f d => encodeByte 0b001011#6 d f
  | .incf f d => encodeByte 0b001010#6 d f
  | .incfsz f d => encodeByte 0b001111#6 d f
  | .iorwf f d => encodeByte 0b000100#6 d f
  | .movf f d => encodeByte 0b001000#6 d f
  | .movwf f => encodeByte1 0b0000001#7 f
  | .nop => 0b00000000000000#14
  | .rlf f d => encodeByte 0b001101#6 d f
  | .rrf f d => encodeByte 0b001100#6 d f
  | .subwf f d => encodeByte 0b000010#6 d f
  | .swapf f d => encodeByte 0b001110#6 d f
  | .xorwf f d => encodeByte 0b000110#6 d f
  | .bcf f b => encodeBit 0b0100#4 b f
  | .bsf f b => encodeBit 0b0101#4 b f
  | .btfsc f b => encodeBit 0b0110#4 b f
  | .btfss f b => encodeBit 0b0111#4 b f
  | .addlw k => encodeLit8 0b111110#6 k
  | .andlw k => encodeLit8 0b111001#6 k
  | .call k => encodeLit11 0b100#3 k
  | .clrwdt => 0b00000001100100#14
  | .goto k => encodeLit11 0b101#3 k
  | .iorlw k => encodeLit8 0b111000#6 k
  | .movlw k => encodeLit8 0b110000#6 k
  | .retfie => 0b00000000001001#14
  | .retlw k => encodeLit8 0b110100#6 k
  | .ret => 0b00000000001000#14
  | .sleep => 0b00000001100011#14
  | .sublw k => encodeLit8 0b111100#6 k
  | .xorlw k => encodeLit8 0b111010#6 k
  | .option => 0b00000001100010#14
  | .tris f => 0b00000001100#11 ++ f
  | .reserved w => w

/-! ### The opcode table as masks (R104), and the don't-care bits (R106) -/

/-- `match` and `mask` of rule R104: a word `w` is the instruction when `w &&& mask = pattern`. -/
structure OpcodeRow where
  mask    : InstrWord
  pattern : InstrWord
deriving DecidableEq, Repr

/-- The row of rule R104 for an instruction; a reserved word is a row of its own (R107). -/
def opcodeRow : Instr → OpcodeRow
  | .addwf _ _ => ⟨0x3F00, 0x0700⟩
  | .andwf _ _ => ⟨0x3F00, 0x0500⟩
  | .clrf _ => ⟨0x3F80, 0x0180⟩
  | .clrw => ⟨0x3F80, 0x0100⟩
  | .comf _ _ => ⟨0x3F00, 0x0900⟩
  | .decf _ _ => ⟨0x3F00, 0x0300⟩
  | .decfsz _ _ => ⟨0x3F00, 0x0B00⟩
  | .incf _ _ => ⟨0x3F00, 0x0A00⟩
  | .incfsz _ _ => ⟨0x3F00, 0x0F00⟩
  | .iorwf _ _ => ⟨0x3F00, 0x0400⟩
  | .movf _ _ => ⟨0x3F00, 0x0800⟩
  | .movwf _ => ⟨0x3F80, 0x0080⟩
  | .nop => ⟨0x3F9F, 0x0000⟩
  | .rlf _ _ => ⟨0x3F00, 0x0D00⟩
  | .rrf _ _ => ⟨0x3F00, 0x0C00⟩
  | .subwf _ _ => ⟨0x3F00, 0x0200⟩
  | .swapf _ _ => ⟨0x3F00, 0x0E00⟩
  | .xorwf _ _ => ⟨0x3F00, 0x0600⟩
  | .bcf _ _ => ⟨0x3C00, 0x1000⟩
  | .bsf _ _ => ⟨0x3C00, 0x1400⟩
  | .btfsc _ _ => ⟨0x3C00, 0x1800⟩
  | .btfss _ _ => ⟨0x3C00, 0x1C00⟩
  | .addlw _ => ⟨0x3E00, 0x3E00⟩
  | .andlw _ => ⟨0x3F00, 0x3900⟩
  | .call _ => ⟨0x3800, 0x2000⟩
  | .clrwdt => ⟨0x3FFF, 0x0064⟩
  | .goto _ => ⟨0x3800, 0x2800⟩
  | .iorlw _ => ⟨0x3F00, 0x3800⟩
  | .movlw _ => ⟨0x3C00, 0x3000⟩
  | .retfie => ⟨0x3FFF, 0x0009⟩
  | .retlw _ => ⟨0x3C00, 0x3400⟩
  | .ret => ⟨0x3FFF, 0x0008⟩
  | .sleep => ⟨0x3FFF, 0x0063⟩
  | .sublw _ => ⟨0x3E00, 0x3C00⟩
  | .xorlw _ => ⟨0x3F00, 0x3A00⟩
  | .option => ⟨0x3FFF, 0x0062⟩
  | .tris f => ⟨0x3FFF, 0x0060 ||| f.setWidth 14⟩
  | .reserved w => ⟨0x3FFF, w⟩

/-- The don't-care bits of an instruction's word (R106). -/
def dontCareBits : Instr → InstrWord
  | .clrw => 0x007F
  | .nop => 0x0060
  | .movlw _ | .retlw _ => 0x0300
  | .addlw _ | .sublw _ => 0x0100
  | .addwf _ _ | .andwf _ _ | .clrf _ | .comf _ _ | .decf _ _ | .decfsz _ _ | .incf _ _
  | .incfsz _ _ | .iorwf _ _ | .movf _ _ | .movwf _ | .rlf _ _ | .rrf _ _ | .subwf _ _
  | .swapf _ _ | .xorwf _ _ | .bcf _ _ | .bsf _ _ | .btfsc _ _ | .btfss _ _ | .andlw _
  | .call _ | .clrwdt | .goto _ | .iorlw _ | .retfie | .ret | .sleep | .xorlw _ | .option
  | .tris _ | .reserved _ => 0x0000

end Sys2Proof
end

