-- ==== Sys2Proof/Machine/Legacy.lean ====
section
/-! DEFINITION. The legacy instructions `OPTION` and `TRIS` (43_option_tris.md), and the reserved words
(30_encoding.md rule R107). -/

namespace Sys2Proof.Machine

/-- R190: `(W) → OPTION`, whatever bank is selected; reserved on a device without it (D13). -/
def execOption (s : State) : Result :=
  if s.dev.hasOption then .next (s.advance.writeReg .optionReg s.w)
  else .refused (.reservedOpcode (encode .option))

/-- The port of a `TRIS` operand: 5, 6 and 7 are A, B and C (R191, TRIS_PORTS). -/
def trisPort (f : BitVec 3) : Option PortId :=
  if f = 5#3 then some .a
  else if f = 6#3 then some .b
  else if f = 7#3 then some .c
  else none

/-- Does the device execute this `TRIS` (D13, R191: a port it lacks is reserved)? -/
def deviceHasTris (dev : Device) (p : PortId) : Bool := dev.hasTris && dev.ports.contains p

/-- R191: `(W) → TRIS register of port f`, bank independent; reserved on a device without it. -/
def execTris (f : BitVec 3) (s : State) : Result :=
  match trisPort f with
  | none => .refused (.reservedOpcode (encode (.tris f)))
  | some p =>
    if deviceHasTris s.dev p then .next (s.advance.writeReg (.tris p) s.w)
    else .refused (.reservedOpcode (encode (.tris f)))

/-- R107, R201: "Use of any reserved opcode may cause unexpected operation": refused (U1). -/
def execReserved (word : InstrWord) (_ : State) : Result := .refused (.reservedOpcode word)

end Sys2Proof.Machine
end

