-- ==== Sys2Proof/Machine/LiteralControl.lean ====
section
/-! DEFINITION. The literal and control operations (42_literal_control.md). -/

namespace Sys2Proof.Machine

/-- R171: `(W) + k → W`; C, DC, Z. -/
def execAddlw (k : Byte) (s : State) : Result := s.literalOp (add8 s.w k)

/-- R172: `(W) .AND. (k) → W`; Z. -/
def execAndlw (k : Byte) (s : State) : Result := s.literalOp (and8 s.w k)

/-- R173: `(PC) + 1 → TOS, k → PC<10:0>, (PCLATH<4:3>) → PC<12:11>`. -/
def execCall (k : BitVec 11) (s : State) : Result :=
  s.push s.npc fun t => .next { t with pc := s.pageTarget k }

/-- R174: the WDT and its prescaler count are cleared, TO and PD set. -/
def execClrwdt (s : State) : Result := .next (s.advance.clearWatchdog.setToPd true true)

/-- R175: `k → PC<10:0>, PCLATH<4:3> → PC<12:11>`. -/
def execGoto (k : BitVec 11) (s : State) : Result := .next { s with pc := s.pageTarget k }

/-- R176: `(W) .OR. k → W`; Z. -/
def execIorlw (k : Byte) (s : State) : Result := s.literalOp (or8 s.w k)

/-- R177: `k → W`; no flag. -/
def execMovlw (k : Byte) (s : State) : Result := s.literalOp (resultPlain k)

/-- R178: `TOS → PC, 1 → GIE`. -/
def execRetfie (s : State) : Result := s.returnFromInterrupt

/-- R179: `k → W; TOS → PC`. -/
def execRetlw (k : Byte) (s : State) : Result := { s with w := k }.returnFromCall

/-- R180: `TOS → PC`. -/
def execReturn (s : State) : Result := s.returnFromCall

/-- R181: as `CLRWDT` with PD cleared, and the processor goes to sleep with the pc advanced. -/
def execSleep (s : State) : Result :=
  .next { s.advance.clearWatchdog.setToPd true false with asleep := true }

/-- R182: `k - (W) → W`; C, DC, Z. -/
def execSublw (k : Byte) (s : State) : Result := s.literalOp (sub8 k s.w)

/-- R183: `(W) .XOR. k → W`; Z. -/
def execXorlw (k : Byte) (s : State) : Result := s.literalOp (xor8 s.w k)

end Sys2Proof.Machine
end

