-- ==== Sys2Proof/Machine/Platform.lean ====
section
/-! DEFINITION. What happens at an instruction boundary (60_exceptions.md, 70_reset_and_hazards.md section 1):
device updates, resets after power-on, watchdog time-outs, SLEEP and wake-up, interrupts; and the fetch.
Most of it is PRESUMED by the spec's own marks (D11, D12, D15, D16; log entries 12, 13, 19, 20, 25). -/

namespace Sys2Proof.Machine

/-! ### Device updates (R204, D15 (b)) -/

/-- One update by the device. The interrupt logic never sets or clears GIE this way (R203, R205). DESIGN CHOICE (log
entry 25): the spec does not say which of INTCON<6:0> are the flag bits of R202 and which the enable bits (D6 leaves
the fields undefined), so the device may set and clear any of the seven, an enable bit among them. -/
def State.applyEvent (s : State) : DeviceEvent → State
  | .pins p level load analog =>
    s.setPort p { s.port p with level := level, load := load, analog := analog }
  | .timer0 v => { s with tmr0 := v }
  | .intconFlags set clear =>
    { s with intcon := (s.intcon ||| (set &&& 0x7F)) &&& ~~~(clear &&& 0x7F) }
  | .watchdog count => { s with wdt := count }
  | .prescaler count => { s with psc := count }

/-- The updates of one boundary, in their order. -/
def State.applyEvents (s : State) (events : List DeviceEvent) : State := events.foldl State.applyEvent s

/-! ### Resets after power-on (R230; power-on is `State.reset`) -/

/-- A port after a reset: pins are inputs (R47, R231), the latch is unknown, the outside is what it was. -/
def PortRegs.afterReset (r : PortRegs) (latch : Byte) : PortRegs := { r with latch := latch, tris := 0xFF }

/-- STATUS after a reset: bank bits 0 (R47, R231), TO and PD by the cause (R230), Z, DC and C unknown. -/
def statusAfterReset (flags : Byte) (timeOut powerDown : Bool) : Byte :=
  setBit (setBit (flags &&& 0x07) Config.bitTO timeOut) Config.bitPD powerDown

/-- A reset that is not power-on: the table of R47 with TO and PD as the cause leaves them (R230); what the
table calls unknown is a free value; general purpose bytes keep theirs (R21); program memory, the device
and its surroundings are not registers (log entry 19). -/
def State.warmReset (s : State) (timeOut powerDown : Bool) : State :=
  { s with
    w         := Config.freeByte s.draws
    pc        := s.dev.resetVector
    pclath    := 0x00
    tos       := Config.freeAddr s.draws
    below     := (List.range (s.dev.stackDepth - 1)).map fun i => Config.freeAddr (s.draws + 1 + i)
    held      := 0
    status    := statusAfterReset (Config.freeByte (s.draws + 1)) timeOut powerDown
    fsr       := Config.freeByte (s.draws + 2)
    intcon    := Config.freeByte (s.draws + 3) &&& 0x01
    optionReg := 0xFF
    tmr0      := Config.freeByte (s.draws + 4)
    portA     := s.portA.afterReset (Config.freeByte (s.draws + 5))
    portB     := s.portB.afterReset (Config.freeByte (s.draws + 6))
    portC     := s.portC.afterReset (Config.freeByte (s.draws + 7))
    wdt       := 0
    psc       := 0
    asleep    := false
    draws     := s.draws + 8 + s.dev.stackDepth }

/-- The external reset (R230): during SLEEP it leaves TO = 1, PD = 0; in normal operation it leaves both
unchanged. -/
def State.mclrReset (s : State) : State :=
  if s.asleep then s.warmReset true false else s.warmReset s.flagTO s.flagPD

/-- A watchdog time-out while running resets the device with TO = 0, PD = 1 (R209, R230). -/
def State.watchdogReset (s : State) : State := s.warmReset false true

/-! ### Waking up (R211) -/

/-- The core is awake again; all register state survives SLEEP. -/
def State.awake (s : State) : State := { s with asleep := false }

/-- A watchdog time-out during SLEEP wakes the core with TO = 0, PD = 0 (R209). -/
def State.wokenByWatchdog (s : State) : State := s.awake.setToPd false false

/-! ### The instruction boundary -/

/-- What a boundary leads to: an instruction runs in a state, or the step is already decided. -/
inductive BoundaryOutcome where
  | runs (s : State)
  | decided (r : Result)

/-- The boundary the step is at: the next one of the input queue, a quiet one when there is none left. -/
def State.nextBoundary (s : State) : Boundary := s.inputs.headD Boundary.quiet

/-- The state with the boundary taken from the queue and the device's updates applied (D15 (b)). -/
def State.afterUpdates (s : State) : State :=
  { s with inputs := s.inputs.tail }.applyEvents s.nextBoundary.events

/-- A boundary in SLEEP (R211): a time-out or a request wakes the core and the instruction after the `SLEEP`
runs, before any interrupt is taken; otherwise the core waits. DESIGN CHOICE (log entry 20): where that instruction
is itself a `SLEEP` and the request stays pending with GIE = 1, R211 does not say whether the interrupt is taken
right after it; the model sleeps again, wakes at the next boundary and runs one more instruction before the entry. -/
def State.boundaryAsleep (s : State) (b : Boundary) : BoundaryOutcome :=
  if b.wdt then .runs s.wokenByWatchdog
  else if b.irq then .runs s.awake
  else .decided (.next s)

/-- A boundary while running: a time-out resets (R209); a request is taken if GIE is set (R203, R205). -/
def State.boundaryAwake (s : State) (b : Boundary) : BoundaryOutcome :=
  if b.wdt then .decided (.next s.watchdogReset)
  else if b.irq && s.gie then .decided s.takeInterrupt
  else .runs s

/-- The whole boundary; a reset overrides everything (R206). -/
def State.boundary (s : State) : BoundaryOutcome :=
  if s.nextBoundary.mclr then .decided (.next s.afterUpdates.mclrReset)
  else if s.afterUpdates.asleep then s.afterUpdates.boundaryAsleep s.nextBoundary
  else s.afterUpdates.boundaryAwake s.nextBoundary

/-! ### The fetch (R24, R25) -/

/-- The word at the pc, where program memory holds one and the device implements the address (D5). -/
def State.fetch (s : State) : Option InstrWord :=
  if s.pc.toNat < s.dev.progWords then Program.read s.program s.pc else none

/-- The state with a word placed where the next step fetches, on a device that implements the address, with
the core awake and a quiet boundary first: what makes the very next step run that word (log entry 26). -/
def State.withWordAtPc (s : State) (w : InstrWord) : State :=
  { s with
    program := Program.place s.program s.pc w
    dev     := { s.dev with progWords := max s.dev.progWords (s.pc.toNat + 1) }
    asleep  := false
    inputs  := Boundary.quiet :: s.inputs }

end Sys2Proof.Machine
end

