-- ==== Sys2Proof/Machine/Step.lean ====
section
/-! DEFINITION. One step (10_state.md rule R24): the instruction boundary, the fetch, the decoding, the
instruction. -/

namespace Sys2Proof.Machine

/-- One step of the machine. -/
def step (s : State) : Host.Outcome State Fault Refusal :=
  match s.boundary with
  | .decided r => r
  | .runs t =>
    match t.fetch with
    | none => .fault (.noProgramWord t.pc)
    | some w => exec (decode w) t

/-- The state with an instruction of the opcode table stored where `step` fetches its next instruction. -/
def State.withFetchWord (s : State) (nbits w : Nat) : State :=
  s.withWordAtPc (BitVec.ofNat 14 (w % 2 ^ nbits))

end Sys2Proof.Machine
end

