-- ==== Sys2Proof/Machine/Timing.lean ====
section
/-! DEFINITION. Instruction timing (70_reset_and_hazards.md section 3): the instruction cycles an instruction
takes (R239) and what each Q cycle of them does (R240). No rule of the step depends on
it, so it is computed from the state and not kept in it (log entry 28). -/

namespace Sys2Proof.Machine

/-- Does the operand designate PCL? -/
def State.namesPcl (s : State) (f : FileField) : Bool := s.resolve f == .pcl

/-- A byte-oriented instruction: a second cycle only if it writes PCL (R239, C22). -/
def State.fileOpCycles (s : State) (f : FileField) (d : Dest) : Nat :=
  if d = .file ∧ s.namesPcl f = true then 2 else 1

/-- `DECFSZ`, `INCFSZ`: "1(2)", and 2 if it writes PCL. -/
def State.fileSkipCycles (s : State) (f : FileField) (d : Dest) (op : Byte → Byte) : Nat :=
  if op (s.readReg (s.resolve f)) = 0x00 then 2 else s.fileOpCycles f d

/-- `BTFSC`, `BTFSS`: "1(2)". -/
def State.bitTestCycles (s : State) (f : FileField) (b : BitField) (skipWhen : Bool) : Nat :=
  if (s.readReg (s.resolve f)).getLsbD b.toNat = skipWhen then 2 else 1

/-- The table of R239, for an instruction about to execute in a state. A reserved word has no timing; it is
given the one cycle of its fetch. -/
def cycles (i : Instr) (s : State) : Nat :=
  match i with
  | .call _ | .goto _ | .ret | .retlw _ | .retfie => 2
  | .btfsc f b => s.bitTestCycles f b false
  | .btfss f b => s.bitTestCycles f b true
  | .decfsz f d => s.fileSkipCycles f d (fun a => a - 1)
  | .incfsz f d => s.fileSkipCycles f d (fun a => a + 1)
  | .addwf f d | .andwf f d | .comf f d | .decf f d | .incf f d | .iorwf f d | .movf f d | .rlf f d
  | .rrf f d | .subwf f d | .swapf f d | .xorwf f d => s.fileOpCycles f d
  | .clrf f | .movwf f => s.fileOpCycles f .file
  | .bcf f _ | .bsf f _ => s.fileOpCycles f .file
  | .clrw | .nop | .addlw _ | .andlw _ | .clrwdt | .iorlw _ | .movlw _ | .sleep | .sublw _ | .xorlw _
  | .option | .tris _ | .reserved _ => 1

/-- The activities of a Q cycle (R240). -/
inductive QActivity where
  | decode
  | noOperation
  | readRegister
  /-- Read literal 'k'. -/
  | readLiteral
  /-- Read literal 'k'<7:0>, as the box of `GOTO` has it. -/
  | readLiteralLow
  | processData
  | writeToDestination
  | writeRegister
  | writeW
  /-- Write the OPTION register (R190). -/
  | writeOption
  | clearWdtCounter
  | goToSleep
  /-- The spec states no activity for this Q cycle. -/
  | notStated
deriving DecidableEq, Repr

/-- Q1 to Q4 of the first instruction cycle (R240). That of `OPTION` is R190's derivation from `MOVWF`, which names Q1,
Q3 and Q4 and says nothing of Q2 (log entry 28). For `TRIS` and the reserved words the spec gives none. -/
def qCycles : Instr → Option (Vector QActivity 4)
  | .addwf _ _ | .andwf _ _ | .comf _ _ | .decfsz _ _ | .incf _ _ | .incfsz _ _ | .iorwf _ _ | .movf _ _
  | .rlf _ _ | .rrf _ _ | .subwf _ _ | .swapf _ _ | .xorwf _ _ | .decf _ _ =>
    some #v[.decode, .readRegister, .processData, .writeToDestination]
  | .bcf _ _ | .bsf _ _ | .clrf _ | .movwf _ =>
    some #v[.decode, .readRegister, .processData, .writeRegister]
  | .clrw => some #v[.decode, .readRegister, .processData, .writeW]
  | .btfsc _ _ | .btfss _ _ => some #v[.decode, .readRegister, .processData, .noOperation]
  | .nop => some #v[.decode, .noOperation, .noOperation, .noOperation]
  | .addlw _ | .andlw _ | .iorlw _ | .movlw _ | .sublw _ | .xorlw _ | .retlw _ =>
    some #v[.decode, .readLiteral, .processData, .writeW]
  | .call _ => some #v[.decode, .readLiteral, .processData, .noOperation]
  | .goto _ => some #v[.decode, .readLiteralLow, .processData, .noOperation]
  | .ret | .retfie => some #v[.decode, .noOperation, .processData, .noOperation]
  | .clrwdt => some #v[.decode, .noOperation, .processData, .clearWdtCounter]
  | .sleep => some #v[.decode, .noOperation, .noOperation, .goToSleep]
  | .option => some #v[.decode, .notStated, .processData, .writeOption]
  | .tris _ | .reserved _ => none

/-- Q1 to Q4 of a second instruction cycle (R240): no operation in all four, the cycle of the discarded word. -/
def secondQCycles : Vector QActivity 4 := Vector.replicate 4 .noOperation

/-- Q1 to Q4 of every instruction cycle the instruction takes in this state (R239, R240). -/
def qActivity (i : Instr) (s : State) : Option (List (Vector QActivity 4)) :=
  (qCycles i).map fun first => first :: List.replicate (cycles i s - 1) secondQCycles

/-- Oscillator periods in an instruction cycle (R238). -/
def oscillatorPeriodsPerCycle : Nat := 4

end Sys2Proof.Machine
end

