-- ==== Sys2Proof/Safety.lean ====
section
/-! DEFINITION. The terms the claims use: when an operand can be accessed, what a delivered result and an
unchanged rest mean, the invariant of a state, and when a run is over. -/

namespace Sys2Proof.Machine

/-! ### Completion -/

/-- The device allows the operand `f` in this state: always, unless it refuses unimplemented addresses (D9). -/
def State.Allows (s : State) (f : FileField) : Prop := deviceAllows s.dev (s.resolve f) = true

/-- The value an instruction reads from its operand `f` (R66). -/
def State.operand (s : State) (f : FileField) : Byte := s.readReg (s.resolve f)

/-- A device on which every parameter that could stop the model is at its effect. -/
structure Permissive (dev : Device) : Prop where
  readsZero : dev.unimplemented = .readsZero
  wraps     : dev.stackPolicy = .wrap
  option    : dev.hasOption = true
  tris      : dev.hasTris = true
  ports     : ∀ p, p ∈ dev.ports

/-! ### What an instruction leaves unchanged -/

/-- What no file register instruction touches: the stack, program memory, the watchdog counter, SLEEP, and
the model's own fields. -/
structure RestSame (s t : State) : Prop where
  tos      : t.tos = s.tos
  below    : t.below = s.below
  held     : t.held = s.held
  program  : t.program = s.program
  wdt      : t.wdt = s.wdt
  asleep   : t.asleep = s.asleep
  inputs   : t.inputs = s.inputs
  dev      : t.dev = s.dev
  draws    : t.draws = s.draws

/-- Every file register but the one written is unchanged, every byte of data memory read one by one among them: all
but PCL and STATUS<4:0> (the flags, TO and PD), which are said apart. A write to TMR0 does to the prescaler count what
R71 says. -/
structure FilesSameExcept (r : FileReg) (s t : State) : Prop where
  tmr0      : r ≠ .tmr0 → t.tmr0 = s.tmr0
  psc       : t.psc = if r = .tmr0 then s.pscAfterTmr0Write else s.psc
  bankBits  : r ≠ .status → t.status.extractLsb' 5 3 = s.status.extractLsb' 5 3
  fsr       : r ≠ .fsr → t.fsr = s.fsr
  pclath    : r ≠ .pclath → t.pclath = s.pclath
  intcon    : r ≠ .intcon → t.intcon = s.intcon
  optionReg : r ≠ .optionReg → t.optionReg = s.optionReg
  latch     : ∀ p, r ≠ .port p → (t.port p).latch = (s.port p).latch
  tris      : ∀ p, r ≠ .tris p → (t.port p).tris = (s.port p).tris
  level     : ∀ p, (t.port p).level = (s.port p).level
  load      : ∀ p, (t.port p).load = (s.port p).load
  analog    : ∀ p, (t.port p).analog = (s.port p).analog
  ram       : ∀ a, r ≠ .ram a → Memory.read t.ram a = Memory.read s.ram a

/-- Every file register is unchanged, STATUS<4:0> and PCL apart: the frame of a form that writes no file register. -/
abbrev FilesSame (s t : State) : Prop := FilesSameExcept .indfSelf s t

/-! ### What an instruction delivers -/

/-- The file register holds the written byte (R67). INDF through itself and an unimplemented address hold
nothing; PCL is the low byte of the address fetched next with PCLATH above it (R69); STATUS is said apart. -/
def State.Holds (t : State) (r : FileReg) (v : Byte) : Prop :=
  match r with
  | .indfSelf | .unimplemented _ | .status => True
  | .tmr0 => t.tmr0 = v
  | .pcl => t.pc = t.pclath ++ v
  | .fsr => t.fsr = v
  | .port p => (t.port p).latch = v
  | .pclath => t.pclath = v.extractLsb' 0 5
  | .intcon => t.intcon = v
  | .optionReg => t.optionReg = v
  | .tris p => (t.port p).tris = v
  | .ram a => Memory.read t.ram a = v

/-- The register a result goes to in the file, if any. -/
def writtenReg (r : FileReg) (d : Dest) : FileReg := if d = .file then r else .indfSelf

/-- STATUS before the flags are set: the written data where STATUS is the destination, TO and PD kept where
they are not writable (R70 step 3); the old STATUS otherwise. -/
def State.statusData (s : State) (written : FileReg) (v : Byte) : Byte :=
  if written = .status then
    if s.dev.toPdWritable then v
    else v.extractLsb' 5 3 ++ s.status.extractLsb' 3 2 ++ v.extractLsb' 0 3
  else s.status

/-- STATUS has C, DC and Z at the given values, and every other bit, and an affected flag without a given
value, as in the data (R70 step 4). -/
structure StatusIs (after data : Byte) (c dc z : Option Bool) : Prop where
  c     : after.getLsbD 0 = c.getD (data.getLsbD 0)
  dc    : after.getLsbD 1 = dc.getD (data.getLsbD 1)
  z     : after.getLsbD 2 = z.getD (data.getLsbD 2)
  upper : after.extractLsb' 3 5 = data.extractLsb' 3 5

/-- `t` is `s` after the value `v` went to the destination `d` of the operand `f` and the flags with a given
value were set: everything but the program counter, which is said apart where PCL is not written. -/
structure Delivered (s t : State) (f : FileField) (d : Dest) (v : Byte) (c dc z : Option Bool) : Prop where
  toW     : t.w = if d = .w then v else s.w
  toFile  : d = .file → t.Holds (s.resolve f) v
  status  : StatusIs t.status (s.statusData (writtenReg (s.resolve f) d) v) c dc z
  files   : FilesSameExcept (writtenReg (s.resolve f) d) s t
  rest    : RestSame s t

/-- `t` is `s` after a literal instruction left `v` in W and set the flags with a given value. -/
structure Loaded (s t : State) (v : Byte) (c dc z : Option Bool) : Prop where
  toW    : t.w = v
  pc     : t.pc = s.npc
  status : StatusIs t.status s.status c dc z
  files  : FilesSame s t
  rest   : RestSame s t

/-- The instruction completes wherever the device allows its operand `f`: it delivers `v` to `d`, sets the flags
with a given value, changes nothing else, and moves on to the next instruction in sequence unless it writes PCL. -/
def Completes (s : State) (i : Instr) (f : FileField) (d : Dest) (v : Byte) (c dc z : Option Bool) : Prop :=
  s.Allows f → ∃ t, exec i s = .next t ∧ Delivered s t f d v c dc z ∧
    (writtenReg (s.resolve f) d ≠ .pcl → t.pc = s.npc)

/-- The instruction delivers `v` and sets no flag; where `v` is 0 it skips the next word (R151), but where that 0
goes to PCL it is refused (U6). -/
def CompletesOrSkips (s : State) (i : Instr) (f : FileField) (d : Dest) (v : Byte) : Prop :=
  s.Allows f →
    (v ≠ 0 → ∃ t, exec i s = .next t ∧ Delivered s t f d v none none none ∧
      (writtenReg (s.resolve f) d ≠ .pcl → t.pc = s.npc)) ∧
    (v = 0 → writtenReg (s.resolve f) d ≠ .pcl →
      ∃ t, exec i s = .next t ∧ Delivered s t f d v none none none ∧ t.pc = s.npc + 1) ∧
    (v = 0 → writtenReg (s.resolve f) d = .pcl → exec i s = .refused .skipAndJump)

/-- The literal instruction completes: it leaves `v` in W and sets the flags with a given value. -/
def Loads (s : State) (i : Instr) (v : Byte) (c dc z : Option Bool) : Prop :=
  ∃ t, exec i s = .next t ∧ Loaded s t v c dc z

/-- The MOVF of the operand to W completes and leaves `v` there: what a read of the file register gives (R66). -/
def ReadsAs (s : State) (f : FileField) (v : Byte) : Prop := ∃ t, exec (.movf f .w) s = .next t ∧ t.w = v

/-- W stored in the operand and read back from it leaves `v` in W. -/
def ReadsBack (s : State) (f : FileField) (v : Byte) : Prop := ∃ t, exec (.movwf f) s = .next t ∧ ReadsAs t f v

/-- The Q cycles of a second instruction cycle (R240). -/
def qIdle : Vector QActivity 4 := #v[.noOperation, .noOperation, .noOperation, .noOperation]

/-- The encoding line, the cycles line and the Q cycle lines of an instruction's page: `q` in the first instruction
cycle, no operation in a second one. -/
def Page (s : State) (i : Instr) (word : InstrWord) (n : Nat) (q : Vector QActivity 4) : Prop :=
  encode i = word ∧ cycles i s = n ∧ qActivity i s = some (if n = 2 then [q, qIdle] else [q])

/-- The Q cycles of the byte-oriented instructions with a destination (R240). -/
def qFile : Vector QActivity 4 := #v[.decode, .readRegister, .processData, .writeToDestination]

/-- The Q cycles of the literal instructions (R170, R240). -/
def qLiteral : Vector QActivity 4 := #v[.decode, .readLiteral, .processData, .writeW]

/-- The Q cycles of `BCF`, `BSF`, `CLRF` and `MOVWF` (R240). -/
def qStore : Vector QActivity 4 := #v[.decode, .readRegister, .processData, .writeRegister]

/-- The cycles of an instruction that writes its result to `d`: two where that is PCL (R239). -/
def cyclesTo (r : FileReg) (d : Dest) : Nat := if writtenReg r d = .pcl then 2 else 1

/-- The file register operand an instruction stores to (R73): with `d = 1`, or always for `CLRF`, `MOVWF`, `BCF`
and `BSF`. -/
def storesTo : Instr → Option FileField
  | .addwf f d | .andwf f d | .comf f d | .decf f d | .decfsz f d | .incf f d | .incfsz f d | .iorwf f d
  | .movf f d | .rlf f d | .rrf f d | .subwf f d | .swapf f d | .xorwf f d => if d = .file then some f else none
  | .clrf f | .movwf f | .bcf f _ | .bsf f _ => some f
  | .btfsc _ _ | .btfss _ _ | .clrw | .nop | .addlw _ | .andlw _ | .call _ | .clrwdt | .goto _ | .iorlw _
  | .movlw _ | .retfie | .retlw _ | .ret | .sleep | .sublw _ | .xorlw _ | .option | .tris _ | .reserved _ => none

/-- The file register operand an instruction names, if it has one (R73). -/
def operandField : Instr → Option FileField
  | .addwf f _ | .andwf f _ | .comf f _ | .decf f _ | .decfsz f _ | .incf f _ | .incfsz f _ | .iorwf f _
  | .movf f _ | .rlf f _ | .rrf f _ | .subwf f _ | .swapf f _ | .xorwf f _
  | .clrf f | .movwf f | .bcf f _ | .bsf f _ | .btfsc f _ | .btfss f _ => some f
  | .clrw | .nop | .addlw _ | .andlw _ | .call _ | .clrwdt | .goto _ | .iorlw _
  | .movlw _ | .retfie | .retlw _ | .ret | .sleep | .sublw _ | .xorlw _ | .option | .tris _ | .reserved _ => none

/-- The instructions of the format BYTE, with a destination `d` (R101). -/
def byteInstrs : List (FileField → Dest → Instr) :=
  [.addwf, .andwf, .comf, .decf, .decfsz, .incf, .incfsz, .iorwf, .movf, .rlf, .rrf, .subwf, .swapf, .xorwf]

/-- Run instructions one after another, as they stand in sequence. -/
def execAll : List Instr → State → Result
  | [], s => .next s
  | i :: rest, s =>
    match exec i s with
    | .next t => execAll rest t
    | .fault r => .fault r
    | .refused r => .refused r

/-! ### The return stack -/

/-- The entry of the return stack `n` below its top; entry 0 is TOS (R29). -/
def State.stackEntry (s : State) (n : Nat) : Option ProgAddr := (s.tos :: s.below)[n]?

/-- `v` stands above the former entries, of which those keep their place that STACK_DEPTH has room for; the oldest of a
full circle is lost (R29, R30). -/
structure PushedEntry (s t : State) (v : ProgAddr) : Prop where
  top   : t.tos = v
  below : ∀ n, n + 1 < s.dev.stackDepth → t.stackEntry (n + 1) = s.stackEntry n
  held  : t.held = min s.dev.stackDepth (s.held + 1)

/-- TOS is gone and the entry below it is the new TOS; its slot comes last in the circle, with its content (R29, D4). -/
structure PoppedEntry (s t : State) : Prop where
  entries : ∀ n, n < s.below.length → t.stackEntry n = s.stackEntry (n + 1)
  stale   : t.stackEntry s.below.length = some s.tos
  held    : t.held = s.held - 1

/-- What a control transfer leaves alone: everything but W, the pc and the stack, and the file register `r`. -/
structure OutsideStack (r : FileReg) (s t : State) : Prop where
  status  : t.status = s.status
  files   : FilesSameExcept r s t
  program : t.program = s.program
  wdt     : t.wdt = s.wdt
  asleep  : t.asleep = s.asleep
  inputs  : t.inputs = s.inputs
  dev     : t.dev = s.dev
  draws   : t.draws = s.draws

/-- Is there room for a push: always in the circular buffer, below STACK_DEPTH entries where a full stack stops (D4)? -/
def State.MayPush (s : State) : Prop := s.dev.stackPolicy = .wrap ∨ s.held < s.dev.stackDepth

/-- Is there an entry to pop: always in the circular buffer, from one entry where an empty stack stops (D4)? -/
def State.MayPop (s : State) : Prop := s.dev.stackPolicy = .wrap ∨ 0 < s.held

/-! ### Boundaries -/

/-- An interrupt is taken at the next boundary: the core is awake, nothing resets it, a source requests, GIE is
set after the device's updates, and the stack has room (R205). -/
structure State.TakesInterrupt (s : State) : Prop where
  mclr   : s.nextBoundary.mclr = false
  wdt    : s.nextBoundary.wdt = false
  irq    : s.nextBoundary.irq = true
  awake  : s.asleep = false
  gie    : s.afterUpdates.intcon.getLsbD 7 = true
  room   : s.MayPush

/-- The state after a reset that is not power-on: the values R47 gives, TO and PD as the cause leaves them
(R230), data memory, program memory and the device as they were (R21). Nothing is said of what R47 leaves
unknown. -/
structure AfterReset (s t : State) (timeOut powerDown : Bool) : Prop where
  pc        : t.pc = s.dev.resetVector
  pclath    : t.pclath = 0
  status    : t.status.extractLsb' 3 5 = 0#3 ++ BitVec.ofBool timeOut ++ BitVec.ofBool powerDown
  intcon    : t.intcon.extractLsb' 1 7 = 0
  optionReg : t.optionReg = 0xFF
  tris      : ∀ p, (t.port p).tris = 0xFF
  held      : t.held = 0
  wdt       : t.wdt = 0
  psc       : t.psc = 0
  asleep    : t.asleep = false
  ram       : t.ram = s.ram
  program   : t.program = s.program
  dev       : t.dev = s.dev
  inputs    : t.inputs = s.inputs.tail

/-! ### The invariant -/

/-- The memories keep their canonical form, data memory lists only bytes the device has, and the stack has
STACK_DEPTH slots, at least one, and holds at most as many entries. -/
structure State.Inv (s : State) : Prop where
  ram      : Memory.wf s.ram
  ramHere  : ∀ c ∈ s.ram, deviceHasRam s.dev c.1 = true
  program  : Program.wf s.program
  slots    : s.below.length + 1 = s.dev.stackDepth
  held     : s.held ≤ s.dev.stackDepth

/-! ### Quiet boundaries and the end of a run -/

/-- Nothing happens at the next boundary and the core is awake: the step runs an instruction. -/
def State.Quiet (s : State) : Prop := s.nextBoundary = Boundary.quiet ∧ s.asleep = false

/-- The state in which a quiet boundary lets the instruction run: its boundary is taken. -/
def State.afterQuiet (s : State) : State := { s with inputs := s.inputs.tail }

/-- No request, no watchdog time-out and no external reset ever comes: none stands in the queue of boundaries, and none
comes once it is empty. Device updates may still come. -/
def State.NothingComes (s : State) : Prop := ∀ b ∈ s.inputs, b.irq = false ∧ b.wdt = false ∧ b.mclr = false

/-- A run is over (D17): (a) the instruction at the pc is a `GOTO` to itself and no request and no time-out ever comes, or
(b) the core sleeps and no wake-up event (R211) ever comes. That an external reset to come keeps (a) from being over is
DEDUCED (log entry 33). -/
def State.Halted (s : State) : Prop :=
  s.NothingComes ∧
    (s.asleep = true ∨ ∃ w k, s.fetch = some w ∧ decode w = .goto k ∧ s.pageTarget k = s.pc)

end Sys2Proof.Machine
end

