-- ==== Sys2Proof/Certificates/Slice0/Obligations.lean ====
section
/-! DEFINITION. The statements for the provers. Each docstring names the rules of spec/ it formalises; where a clause
rests on what the spec marks as general knowledge, a derivation or a decision, it names the log entry
(notes/assumptions) or the decision. The terms are those of Sys2Proof/Safety.lean. -/

section Slice0Statements

open Sys2Proof Sys2Proof.Machine

/-! ### Encoding -/

/-- Words written out bit by bit from R104 and 95_test_vectors.md part 2 decode to their instructions. The `TRIS`
word is PRESUMED (entry 16). -/
def Obligations.SampleWordsDecode : Prop :=
  decode 0b00011110100000#14 = .addwf 0x20 .file ∧ decode 0b00000010100000#14 = .movwf 0x20 ∧
    decode 0b01011010000011#14 = .bsf 0x03 5 ∧ decode 0b10001000110100#14 = .call 0x234 ∧
    decode 0b11110000000010#14 = .sublw 0x02 ∧ decode 0b00000001100011#14 = .sleep ∧
    decode 0b00000001100110#14 = .tris 6 ∧ decode 0b11101100000000#14 = .reserved 0x3B00

/-- R104, R105: the decoder gives back every well-formed instruction from its encoding, with every operand at every
value. `TRIS` and `reserved` are among them (PRESUMED and DEDUCED, entries 16, 24). -/
def Obligations.DecodeOfEncode : Prop := ∀ i : Instr, i.wellFormed = true → decode (encode i) = i

/-- R104 to R107: a word decodes to an instruction exactly when the instruction is well-formed and the word is its
encoding up to don't-care bits; so every word has one answer, which is well-formed (entries 16, 24). -/
def Obligations.WordsOfAnInstruction : Prop :=
  ∀ (i : Instr) (w : InstrWord),
    decode w = i ↔ i.wellFormed = true ∧ (w ^^^ encode i) &&& ~~~dontCareBits i = 0

/-- R106: the words of each of the six instructions with don't-care bits, the assembler's form with those bits 0,
and that no other instruction has two words. -/
def Obligations.DontCareBits : Prop :=
  (∀ w, decode w = .clrw ↔ w &&& 0x3F80 = 0x0100) ∧
    (∀ w, decode w = .nop ↔ w &&& 0x3F9F = 0x0000) ∧
    (∀ w k, decode w = .movlw k ↔ w &&& 0x3CFF = 0x3000 ||| k.setWidth 14) ∧
    (∀ w k, decode w = .retlw k ↔ w &&& 0x3CFF = 0x3400 ||| k.setWidth 14) ∧
    (∀ w k, decode w = .addlw k ↔ w &&& 0x3EFF = 0x3E00 ||| k.setWidth 14) ∧
    (∀ w k, decode w = .sublw k ↔ w &&& 0x3EFF = 0x3C00 ||| k.setWidth 14) ∧
    (encode .clrw = 0x0100 ∧ encode .nop = 0x0000 ∧
      ∀ k, encode (.movlw k) = 0x3000 ||| k.setWidth 14 ∧ encode (.retlw k) = 0x3400 ||| k.setWidth 14 ∧
        encode (.addlw k) = 0x3E00 ||| k.setWidth 14 ∧ encode (.sublw k) = 0x3C00 ||| k.setWidth 14) ∧
    ∀ v w, decode v = decode w → v = w ∨ decode w = .clrw ∨ decode w = .nop ∨
      ∃ k, decode w = .movlw k ∨ decode w = .retlw k ∨ decode w = .addlw k ∨ decode w = .sublw k

/-- R107: the reserved words are exactly the 116 and the 256 listed there, each kept as itself. The list is the
spec's derivation (entry 24) and has the `TRIS` words as instructions (entry 16). -/
def Obligations.ReservedWords : Prop :=
  (∀ w : InstrWord, decode w = .reserved w ↔
      (w.toNat < 0x80 ∧ w.toNat ∉ [0x00, 0x20, 0x40, 0x60, 0x08, 0x09, 0x62, 0x63, 0x64, 0x65, 0x66, 0x67]) ∨
        (0x3B00 ≤ w.toNat ∧ w.toNat ≤ 0x3BFF)) ∧
    (∀ v w : InstrWord, decode w = .reserved v → v = w) ∧
    ((List.range 0x80).filter fun n => isReservedWord (BitVec.ofNat 14 n)).length = 116

/-! ### The step -/

/-- R24: where nothing happens at the boundary and the word at the pc is `w`, the step is the decoded instruction
in the state with that boundary taken from the queue (entry 13). -/
def Obligations.StepRunsDecoded : Prop :=
  ∀ (s : State) (w : InstrWord), s.Quiet → s.fetch = some w →
    (decode w).wellFormed = true ∧ step s = exec (decode w) { s with inputs := s.inputs.tail }

/-- The model's `withFetchWord` (entry 26): the very next step runs the placed word. -/
def Obligations.PlacedWordRuns : Prop :=
  ∀ (s : State) (n w : Nat),
    step (s.withFetchWord n w) =
      exec (decode (BitVec.ofNat 14 (w % 2 ^ n))) { s.withFetchWord n w with inputs := s.inputs }

/-- R25, D5, U12 (the spec's decision; entry 9): a fetch where program memory holds no word, or outside
PROG_WORDS, stops the model. -/
def Obligations.FetchStops : Prop :=
  ∀ s : State, s.Quiet → s.dev.progWords ≤ s.pc.toNat ∨ Program.read s.program s.pc = none →
    step s = .fault (.noProgramWord s.pc)

/-! ### Byte-oriented instructions -/

/-- R132, R147, R131: sum and difference, C the carry or not-borrow, DC that of the low digit, Z. The positions of
C and DC and the meaning of DC are PRESUMED (entry 2). -/
def Obligations.AddwfSubwf : Prop :=
  ∀ (s : State) (f : FileField) (d : Dest),
    Page s (.addwf f d) (0b000111#6 ++ encodeD d ++ f) (cyclesTo (s.resolve f) d) qFile ∧
    Completes s (.addwf f d) f d (s.w + s.operand f)
      (some (decide (256 ≤ s.w.toNat + (s.operand f).toNat)))
      (some (decide (16 ≤ s.w.toNat % 16 + (s.operand f).toNat % 16)))
      (some (decide (s.w + s.operand f = 0))) ∧
    Page s (.subwf f d) (0b000010#6 ++ encodeD d ++ f) (cyclesTo (s.resolve f) d) qFile ∧
    Completes s (.subwf f d) f d (s.operand f - s.w)
      (some (decide (s.w.toNat ≤ (s.operand f).toNat)))
      (some (decide (s.w.toNat % 16 ≤ (s.operand f).toNat % 16)))
      (some (decide (s.operand f = s.w)))

/-- R133, R136, R139, R141, R142, R149: the operations that affect Z alone. What the destinations STATUS, PCLATH and
TMR0 make of the result rests on entries 2, 10, 22 and 15. -/
def Obligations.ZeroFlagOperations : Prop :=
  ∀ (s : State) (f : FileField) (d : Dest),
    Page s (.andwf f d) (0b000101#6 ++ encodeD d ++ f) (cyclesTo (s.resolve f) d) qFile ∧
    Completes s (.andwf f d) f d (s.w &&& s.operand f) none none (some (decide (s.w &&& s.operand f = 0))) ∧
    Page s (.comf f d) (0b001001#6 ++ encodeD d ++ f) (cyclesTo (s.resolve f) d) qFile ∧
    Completes s (.comf f d) f d (~~~s.operand f) none none (some (decide (s.operand f = 0xFF))) ∧
    Page s (.incf f d) (0b001010#6 ++ encodeD d ++ f) (cyclesTo (s.resolve f) d) qFile ∧
    Completes s (.incf f d) f d (s.operand f + 1) none none (some (decide (s.operand f = 0xFF))) ∧
    Page s (.iorwf f d) (0b000100#6 ++ encodeD d ++ f) (cyclesTo (s.resolve f) d) qFile ∧
    Completes s (.iorwf f d) f d (s.w ||| s.operand f) none none (some (decide (s.w ||| s.operand f = 0))) ∧
    Page s (.movf f d) (0b001000#6 ++ encodeD d ++ f) (cyclesTo (s.resolve f) d) qFile ∧
    Completes s (.movf f d) f d (s.operand f) none none (some (decide (s.operand f = 0))) ∧
    Page s (.xorwf f d) (0b000110#6 ++ encodeD d ++ f) (cyclesTo (s.resolve f) d) qFile ∧
    Completes s (.xorwf f d) f d (s.w ^^^ s.operand f) none none (some (decide (s.w = s.operand f)))

/-- R137, the spec's derivation of `DECF` (entry 29). -/
def Obligations.DecfDecrements : Prop :=
  ∀ (s : State) (f : FileField) (d : Dest),
    Page s (.decf f d) (0b000011#6 ++ encodeD d ++ f) (cyclesTo (s.resolve f) d) qFile ∧
    Completes s (.decf f d) f d (s.operand f - 1) none none (some (decide (s.operand f = 1)))

/-- R145, R146: each rotates the nine bits C and `f` by one; nine of them in a row restore a general purpose byte
and C. C is bit 0 of STATUS (PRESUMED, entry 2). -/
def Obligations.RotatesThroughCarry : Prop :=
  ∀ (s : State) (f : FileField),
    (∀ d : Dest,
      Page s (.rlf f d) (0b001101#6 ++ encodeD d ++ f) (cyclesTo (s.resolve f) d) qFile ∧
      Completes s (.rlf f d) f d ((s.operand f).extractLsb' 0 7 ++ BitVec.ofBool s.flagC)
        (some ((s.operand f).getLsbD 7)) none none ∧
      Page s (.rrf f d) (0b001100#6 ++ encodeD d ++ f) (cyclesTo (s.resolve f) d) qFile ∧
      Completes s (.rrf f d) f d (BitVec.ofBool s.flagC ++ (s.operand f).extractLsb' 1 7)
        (some ((s.operand f).getLsbD 0)) none none) ∧
    ∀ a, s.resolve f = .ram a →
      (∃ t, execAll (List.replicate 9 (.rlf f .file)) s = .next t ∧
        t.operand f = s.operand f ∧ t.flagC = s.flagC ∧ t.pc = s.pc + 9) ∧
      ∃ t, execAll (List.replicate 9 (.rrf f .file)) s = .next t ∧
        t.operand f = s.operand f ∧ t.flagC = s.flagC ∧ t.pc = s.pc + 9

/-- R148: the nibbles exchanged, no flag; two in a row restore a general purpose byte. What the destinations STATUS,
PCLATH and TMR0 make of the result rests on entries 2, 10, 22 and 15. -/
def Obligations.SwapfSwapsNibbles : Prop :=
  ∀ (s : State) (f : FileField),
    (∀ d : Dest,
      Page s (.swapf f d) (0b001110#6 ++ encodeD d ++ f) (cyclesTo (s.resolve f) d) qFile ∧
      Completes s (.swapf f d) f d ((s.operand f).extractLsb' 0 4 ++ (s.operand f).extractLsb' 4 4) none none none) ∧
    ∀ a, s.resolve f = .ram a →
      ∃ t, execAll [.swapf f .file, .swapf f .file] s = .next t ∧ t.operand f = s.operand f ∧ t.status = s.status

/-- R134, R143: the two instructions that store without reading. That `MOVWF` to TMR0 clears the prescaler count is the
spec's decision (D15 (c), entry 15); the destinations STATUS and PCLATH rest on entries 2, 10 and 22. -/
def Obligations.ClrfMovwf : Prop :=
  ∀ (s : State) (f : FileField),
    Page s (.clrf f) (0b0000011#7 ++ f) (cyclesTo (s.resolve f) .file) qStore ∧
    Completes s (.clrf f) f .file 0 none none (some true) ∧
    Page s (.movwf f) (0b0000001#7 ++ f) (cyclesTo (s.resolve f) .file) qStore ∧
    Completes s (.movwf f) f .file s.w none none none

/-- R135, R144. -/
def Obligations.ClrwNop : Prop :=
  ∀ s : State,
    Page s .clrw 0x0100 1 #v[.decode, .readRegister, .processData, .writeW] ∧
    Loads s .clrw 0 none none (some true) ∧
    Page s .nop 0x0000 1 #v[.decode, .noOperation, .noOperation, .noOperation] ∧
    (decode 0x0000 = .nop ∧ decode 0x0020 = .nop ∧ decode 0x0040 = .nop ∧ decode 0x0060 = .nop) ∧
    exec .nop s = .next { s with pc := s.npc }

/-- R138, R140, R151: the result goes to the destination, no flag changes, and a result 0 skips exactly one word. The
refusal of a result 0 in PCL is the spec's U6 (entry 23). -/
def Obligations.DecfszIncfsz : Prop :=
  ∀ (s : State) (f : FileField) (d : Dest),
    Page s (.decfsz f d) (0b001011#6 ++ encodeD d ++ f)
      (if s.operand f = 1 then 2 else cyclesTo (s.resolve f) d) qFile ∧
    CompletesOrSkips s (.decfsz f d) f d (s.operand f - 1) ∧
    Page s (.incfsz f d) (0b001111#6 ++ encodeD d ++ f)
      (if s.operand f = 0xFF then 2 else cyclesTo (s.resolve f) d) qFile ∧
    CompletesOrSkips s (.incfsz f d) f d (s.operand f + 1)

/-- R130: with `d = 0` the result goes to W and no file register is written; with `d = 1` the same result goes to the
file register and W keeps its value. For each of the 14 instructions with a `d`. STATUS<4:0> and PCL are said apart, in
the statement of each instruction; PCLATH and TMR0 as destinations rest on entries 22 and 15. -/
def Obligations.DestinationSelect : Prop :=
  ∀ mk ∈ byteInstrs, ∀ (s t u : State) (f : FileField),
    exec (mk f .w) s = .next t → exec (mk f .file) s = .next u →
      FilesSame s t ∧ u.w = s.w ∧ u.Holds (s.resolve f) t.w ∧ FilesSameExcept (s.resolve f) s u

/-- R34: each of the 16 instructions that affect Z sets it exactly when the result it computes is 0x00, whichever
destination it goes to; `CLRF` and `CLRW` always set it. -/
def Obligations.ZeroFlag : Prop :=
  (∀ mk ∈ ([.addwf, .andwf, .comf, .decf, .incf, .iorwf, .movf, .subwf, .xorwf] : List (FileField → Dest → Instr)),
    ∀ (s t u : State) (f : FileField), exec (mk f .w) s = .next t → exec (mk f .file) s = .next u →
      t.status.getLsbD 2 = decide (t.w = 0) ∧ u.status.getLsbD 2 = decide (t.w = 0)) ∧
  (∀ mk ∈ ([.addlw, .andlw, .iorlw, .sublw, .xorlw] : List (Byte → Instr)),
    ∀ (s t : State) (k : Byte), exec (mk k) s = .next t → t.status.getLsbD 2 = decide (t.w = 0)) ∧
  ∀ s t : State, exec .clrw s = .next t ∨ (∃ f, exec (.clrf f) s = .next t) → t.status.getLsbD 2 = true

/-! ### Bit-oriented instructions -/

/-- R161, R162, R160: the whole byte is read, one bit changed, the whole byte written back; no flag. What the
destinations STATUS, PCLATH and TMR0 make of the byte rests on entries 2, 10, 22 and 15. -/
def Obligations.BcfBsf : Prop :=
  ∀ (s : State) (f : FileField) (b : BitField),
    Page s (.bcf f b) (0b0100#4 ++ b ++ f) (cyclesTo (s.resolve f) .file) qStore ∧
    Completes s (.bcf f b) f .file (s.operand f &&& ~~~(1#8 <<< b.toNat)) none none none ∧
    Page s (.bsf f b) (0b0101#4 ++ b ++ f) (cyclesTo (s.resolve f) .file) qStore ∧
    Completes s (.bsf f b) f .file (s.operand f ||| (1#8 <<< b.toNat)) none none none

/-- R163, R164: the bit decides between the next word and the one after it; nothing else changes. -/
def Obligations.BtfscBtfss : Prop :=
  ∀ (s : State) (f : FileField) (b : BitField),
    Page s (.btfsc f b) (0b0110#4 ++ b ++ f) (if (s.operand f).getLsbD b.toNat then 1 else 2)
      #v[.decode, .readRegister, .processData, .noOperation] ∧
    (s.Allows f → exec (.btfsc f b) s =
      .next { s with pc := if (s.operand f).getLsbD b.toNat then s.npc else s.npc + 1 }) ∧
    Page s (.btfss f b) (0b0111#4 ++ b ++ f) (if (s.operand f).getLsbD b.toNat then 2 else 1)
      #v[.decode, .readRegister, .processData, .noOperation] ∧
    (s.Allows f → exec (.btfss f b) s =
      .next { s with pc := if (s.operand f).getLsbD b.toNat then s.npc + 1 else s.npc })

/-! ### Literal instructions -/

/-- R171, R182, R131: `W + k` and `k - W`. The positions of C and DC and the meaning of DC are PRESUMED (entry 2). -/
def Obligations.AddlwSublw : Prop :=
  ∀ (s : State) (k : Byte),
    Page s (.addlw k) (0b111110#6 ++ k) 1 qLiteral ∧
    Loads s (.addlw k) (s.w + k) (some (decide (256 ≤ s.w.toNat + k.toNat)))
      (some (decide (16 ≤ s.w.toNat % 16 + k.toNat % 16))) (some (decide (s.w + k = 0))) ∧
    Page s (.sublw k) (0b111100#6 ++ k) 1 qLiteral ∧
    Loads s (.sublw k) (k - s.w) (some (decide (s.w.toNat ≤ k.toNat)))
      (some (decide (s.w.toNat % 16 ≤ k.toNat % 16))) (some (decide (k = s.w)))

/-- R172, R176, R183 with R170. -/
def Obligations.LiteralLogic : Prop :=
  ∀ (s : State) (k : Byte),
    Page s (.andlw k) (0b111001#6 ++ k) 1 qLiteral ∧
    Loads s (.andlw k) (s.w &&& k) none none (some (decide (s.w &&& k = 0))) ∧
    Page s (.iorlw k) (0b111000#6 ++ k) 1 qLiteral ∧
    Loads s (.iorlw k) (s.w ||| k) none none (some (decide (s.w = 0 ∧ k = 0))) ∧
    Page s (.xorlw k) (0b111010#6 ++ k) 1 qLiteral ∧
    Loads s (.xorlw k) (s.w ^^^ k) none none (some (decide (s.w = k)))

/-- R177: `k → W`, no flag. -/
def Obligations.MovlwLoads : Prop :=
  ∀ (s : State) (k : Byte),
    Page s (.movlw k) (0b110000#6 ++ k) 1 qLiteral ∧
    exec (.movlw k) s = .next { s with w := k, pc := s.npc }

/-! ### Control transfer and the return stack -/

/-- R175: `k → PC<10:0>, PCLATH<4:3> → PC<12:11>`, and nothing else. -/
def Obligations.GotoJumps : Prop :=
  ∀ (s : State) (k : BitVec 11),
    Page s (.goto k) (0b101#3 ++ k) 2 #v[.decode, .readLiteralLow, .processData, .noOperation] ∧
    exec (.goto k) s = .next { s with pc := s.pclath.extractLsb' 3 2 ++ k }

/-- R173: the 13-bit return address is pushed and the target is formed as for `GOTO`. That a full stack under policy
`wrap` takes the push, and the depth, are D3 and D4 (entries 7, 8). -/
def Obligations.CallPushesAndJumps : Prop :=
  ∀ (s : State) (k : BitVec 11),
    Page s (.call k) (0b100#3 ++ k) 2 #v[.decode, .readLiteral, .processData, .noOperation] ∧
    (s.MayPush → ∃ t, exec (.call k) s = .next t ∧ t.pc = s.pclath.extractLsb' 3 2 ++ k ∧
      PushedEntry s t (s.pc + 1) ∧ t.w = s.w ∧ OutsideStack .indfSelf s t)

/-- R178, R179, R180: all 13 bits of the pc come from TOS, which is popped; `RETLW` loads W and `RETFIE` sets GIE,
INTCON<7>. That an empty stack under policy `wrap` gives its stale slot, and the circle, are D3, D4 and U2 (entries 7,
8). -/
def Obligations.Returns : Prop :=
  ∀ s : State,
    Page s .ret 0x0008 2 #v[.decode, .noOperation, .processData, .noOperation] ∧
    Page s .retfie 0x0009 2 #v[.decode, .noOperation, .processData, .noOperation] ∧
    (∀ k, Page s (.retlw k) (0b110100#6 ++ k) 2 qLiteral) ∧
    (s.MayPop →
      (∃ t, exec .ret s = .next t ∧ t.pc = s.tos ∧ PoppedEntry s t ∧ t.w = s.w ∧
        OutsideStack .indfSelf s t) ∧
      (∀ k, ∃ t, exec (.retlw k) s = .next t ∧ t.pc = s.tos ∧ PoppedEntry s t ∧ t.w = k ∧
        OutsideStack .indfSelf s t) ∧
      ∃ t, exec .retfie s = .next t ∧ t.pc = s.tos ∧ PoppedEntry s t ∧ t.w = s.w ∧
        t.intcon = s.intcon ||| 0x80 ∧ OutsideStack .intcon s t)

/-- R173, R180, R184 (c): after a `CALL` the matching `RETURN` comes back to the address after the `CALL`, with the
stack as it was before (but for the oldest of STACK_DEPTH slots) and W, the flags and every file register unchanged
(entries 7, 8). -/
def Obligations.CallThenReturn : Prop :=
  ∀ (s : State) (k : BitVec 11), s.MayPush →
    ∃ t u, exec (.call k) s = .next t ∧ exec .ret t = .next u ∧ u.pc = s.pc + 1 ∧
      (∀ n v, n + 1 < s.dev.stackDepth → s.stackEntry n = some v → u.stackEntry n = some v) ∧
      (s.held < s.dev.stackDepth → u.held = s.held) ∧ u.w = s.w ∧ u.status = s.status ∧ FilesSame s u

/-- R30, D3, D4, U2, the spec's decision (entries 7, 8): where STACK_POLICY is `fault`, a push with STACK_DEPTH entries
held and a pop with none held stop the model. -/
def Obligations.StackStops : Prop :=
  ∀ s : State,
    (s.dev.stackPolicy = .fault → s.dev.stackDepth ≤ s.held →
      (∀ k, exec (.call k) s = .fault .stackOverflow) ∧ s.takeInterrupt = .fault .stackOverflow) ∧
    (s.dev.stackPolicy = .fault → s.held = 0 →
      exec .ret s = .fault .stackUnderflow ∧ exec .retfie s = .fault .stackUnderflow ∧
        ∀ k, exec (.retlw k) s = .fault .stackUnderflow)

/-- R29: no instruction but `CALL` and the three returns changes the stack. -/
def Obligations.OnlyCallsAndReturnsUseTheStack : Prop :=
  ∀ (i : Instr) (s t : State), exec i s = .next t →
    (∀ k, i ≠ .call k) → (∀ k, i ≠ .retlw k) → i ≠ .ret → i ≠ .retfie →
    t.tos = s.tos ∧ t.below = s.below ∧ t.held = s.held

/-! ### System and legacy instructions -/

/-- R174: the WDT and, if it is assigned to the WDT or not tracked, the prescaler count are cleared, TO and PD are set,
nothing else changes. The places of TO, PD and PSA are PRESUMED (entries 2, 15). -/
def Obligations.ClrwdtClears : Prop :=
  ∀ s : State,
    Page s .clrwdt 0x0064 1 #v[.decode, .noOperation, .processData, .clearWdtCounter] ∧
    exec .clrwdt s = .next { s with
      pc := s.npc, wdt := 0, status := s.status ||| 0x18
      psc := if s.dev.prescalerFromPsa = true ∧ s.optionReg.getLsbD 3 = false then s.psc else 0 }

/-- R181: as `CLRWDT` with PD cleared, and the core sleeps at the next address (entries 2, 15, 20). -/
def Obligations.SleepSleeps : Prop :=
  ∀ s : State,
    Page s .sleep 0x0063 1 #v[.decode, .noOperation, .noOperation, .goToSleep] ∧
    exec .sleep s = .next { s with
      pc := s.npc, wdt := 0, status := (s.status ||| 0x10) &&& 0xF7, asleep := true
      psc := if s.dev.prescalerFromPsa = true ∧ s.optionReg.getLsbD 3 = false then s.psc else 0 }

/-- R190: all 8 bits of W go to the OPTION register, whatever bank is selected; nothing else changes. The Q cycles are the
spec's derivation from `MOVWF` (R190, N6), which says nothing of Q2 (entry 28); that a device has `OPTION` is a parameter
(entry 16). -/
def Obligations.OptionLoads : Prop :=
  ∀ s : State,
    Page s .option 0x0062 1 #v[.decode, .notStated, .processData, .writeOption] ∧
    (s.dev.hasOption = true → exec .option s = .next { s with pc := s.npc, optionReg := s.w })

/-- R191, PRESUMED (entry 16): W goes to the TRIS register of port A, B or C, whatever bank is selected. -/
def Obligations.TrisLoads : Prop :=
  ∀ s : State,
    (s.dev.hasTris = true → .a ∈ s.dev.ports →
      exec (.tris 5) s = .next { s with pc := s.npc, portA := { s.portA with tris := s.w } }) ∧
    (s.dev.hasTris = true → .b ∈ s.dev.ports →
      exec (.tris 6) s = .next { s with pc := s.npc, portB := { s.portB with tris := s.w } }) ∧
    (s.dev.hasTris = true → .c ∈ s.dev.ports →
      exec (.tris 7) s = .next { s with pc := s.npc, portC := { s.portC with tris := s.w } })

/-- R107, R201, U1, U7 (the spec's decision; entry 24): a reserved word is refused in every state; so are `OPTION` and
`TRIS` on a device without them, and a `TRIS` for a port the device lacks. -/
def Obligations.ReservedRefused : Prop :=
  (∀ (s : State) (w : InstrWord), exec (.reserved w) s = .refused (.reservedOpcode w)) ∧
    (∀ s : State, s.dev.hasOption = false → exec .option s = .refused (.reservedOpcode 0x0062)) ∧
    ∀ (s : State) (f : BitVec 3), s.dev.hasTris = false ∨ (∀ p ∈ s.dev.ports, trisPort f ≠ some p) →
      exec (.tris f) s = .refused (.reservedOpcode (0b00000001100#11 ++ f))

/-! ### The file register operand -/

/-- R63, R64, PRESUMED (entry 3): the 9-bit data address of an operand, direct and through FSR. -/
def Obligations.OperandAddress : Prop :=
  ∀ (s : State) (f : FileField),
    (f ≠ 0 → (s.operandAddr f).toNat =
      256 * (s.status.getLsbD 6).toNat + 128 * (s.status.getLsbD 5).toNat + f.toNat) ∧
    (s.operandAddr 0).toNat = 256 * (s.status.getLsbD 7).toNat + s.fsr.toNat

/-- R65 (b), (d), D6, D9, PRESUMED (entries 1, 3, 4, 6): what stands at an address: the registers common to all banks at
their offset in each; without mirrors the other registers at their one address, a general purpose byte of its own at
each address of the device's runs, nothing anywhere else; an address a mirror covers is another name of its target, by
the first mirror that covers it; INDF through itself reads 0 and stores nothing. -/
def Obligations.RegisterMap : Prop :=
  (∀ (dev : Device) (a : DataAddr),
    (a.toNat % 128 = 0x00 → locate dev a = .indfSelf) ∧ (a.toNat % 128 = 0x02 → locate dev a = .pcl) ∧
    (a.toNat % 128 = 0x03 → locate dev a = .status) ∧ (a.toNat % 128 = 0x04 → locate dev a = .fsr) ∧
    (a.toNat % 128 = 0x0A → locate dev a = .pclath) ∧ (a.toNat % 128 = 0x0B → locate dev a = .intcon) ∧
    (dev.mirrors = [] → a.toNat % 128 ∉ [0x00, 0x02, 0x03, 0x04, 0x0A, 0x0B] →
      (a = 0x001 → locate dev a = .tmr0) ∧ (a = 0x081 → locate dev a = .optionReg) ∧
      (∀ p, (p, a) ∈ [(PortId.a, 0x005#9), (.b, 0x006#9), (.c, 0x007#9)] →
        locate dev a = if p ∈ dev.ports then .port p else .unimplemented a.toNat) ∧
      (∀ p, (p, a) ∈ [(PortId.a, 0x085#9), (.b, 0x086#9), (.c, 0x087#9)] →
        locate dev a = if p ∈ dev.ports then .tris p else .unimplemented a.toNat) ∧
      (a ∉ [0x001#9, 0x005#9, 0x006#9, 0x007#9, 0x081#9, 0x085#9, 0x086#9, 0x087#9] →
        ((∃ r ∈ dev.ram, r.base ≤ a.toNat ∧ a.toNat < r.base + r.size) → locate dev a = .ram a.toNat) ∧
        ((∀ r ∈ dev.ram, a.toNat < r.base ∨ r.base + r.size ≤ a.toNat) →
          locate dev a = .unimplemented a.toNat)))) ∧
  (∀ (dev : Device) (before after : List Mirror) (m : Mirror) (a : DataAddr),
    a.toNat % 128 ∉ [0x00, 0x02, 0x03, 0x04, 0x0A, 0x0B] →
    (∀ n ∈ before, a.toNat < n.base ∨ n.base + n.size ≤ a.toNat) →
    (dev.mirrors = before → locate dev a = locate { dev with mirrors := [] } a) ∧
    (dev.mirrors = before ++ m :: after → m.base ≤ a.toNat → a.toNat < m.base + m.size →
      locate dev a = locate { dev with mirrors := [] } (BitVec.ofNat 9 (m.target + (a.toNat - m.base))))) ∧
  ∀ s : State, s.fsr.toNat % 128 = 0 →
    s.operand 0 = 0 ∧ exec (.movwf 0) s = .next { s with pc := s.npc }

/-- R65 (c), D9, U5, the spec's decision (entry 5): an operand the device does not allow is an unimplemented address, and
every instruction that names it stops; an allowed unimplemented address reads 0. -/
def Obligations.UnimplementedOperands : Prop :=
  (∀ (i : Instr) (s : State) (f : FileField), operandField i = some f → ¬ s.Allows f →
    ∃ a, s.resolve f = .unimplemented a ∧ exec i s = .fault (.unimplementedAddress a)) ∧
  (∀ (s : State) (f : FileField), s.dev.unimplemented = .readsZero → s.Allows f) ∧
  ∀ (s : State) (f : FileField) (a : Nat), s.resolve f = .unimplemented a → s.operand f = 0

/-- R68, R69: PCL reads as the low byte of the next instruction's address and the read does not jump; every instruction
that stores to PCL jumps to PCLATH<4:0> above the byte it computes, leaves PCLATH alone and takes two cycles. -/
def Obligations.PclAsOperand : Prop :=
  ∀ (s : State) (f : FileField), s.resolve f = .pcl →
    (∃ t, exec (.movf f .w) s = .next t ∧ t.w = (s.pc + 1).extractLsb' 0 8 ∧ t.pc = s.pc + 1 ∧
      t.pclath = s.pclath) ∧
    exec (.movwf f) s = .next { s with pc := s.pclath ++ s.w } ∧
    (∀ mk ∈ byteInstrs, ∀ t u, exec (mk f .w) s = .next t → exec (mk f .file) s = .next u →
      u.pc = s.pclath ++ t.w) ∧
    ∀ i t, storesTo i = some f → exec i s = .next t →
      t.pc.extractLsb' 8 5 = s.pclath ∧ t.pclath = s.pclath ∧ cycles i s = 2

/-- R72, R73, R160: reading a port reads its pins, so a read-modify-write copies them to the latch but for what it
computes, and `MOVWF` does not; and what a pin reads (PinOracle, D14; entry 14). -/
def Obligations.PortReadModifyWrite : Prop :=
  (∀ (s : State) (f : FileField) (p : PortId), s.resolve f = .port p →
    (∀ b : BitField, ∃ t, exec (.bsf f b) s = .next t ∧
      (t.port p).latch = (s.port p).pins ||| (1#8 <<< b.toNat)) ∧
    (∀ b : BitField, ∃ t, exec (.bcf f b) s = .next t ∧
      (t.port p).latch = (s.port p).pins &&& ~~~(1#8 <<< b.toNat)) ∧
    (∃ t, exec (.movf f .file) s = .next t ∧ (t.port p).latch = (s.port p).pins) ∧
    ∃ t, exec (.movwf f) s = .next t ∧ (t.port p).latch = s.w) ∧
  ∀ (r : PortRegs) (n : Nat), n < 8 →
    (r.analog.getLsbD n = true → r.pins.getLsbD n = false) ∧
    (r.analog.getLsbD n = false → r.tris.getLsbD n = false → r.load.getLsbD n = false →
      r.pins.getLsbD n = r.latch.getLsbD n) ∧
    (r.analog.getLsbD n = false → r.tris.getLsbD n = true ∨ r.load.getLsbD n = true →
      r.pins.getLsbD n = r.level.getLsbD n)

/-- R36, R70, D10: the data is written through STATUS_WR_MASK and the affected flags override it. The mask is the
spec's OPEN parameter (entry 10), the places of TO and PD are PRESUMED (entry 2). -/
def Obligations.StatusAsDestination : Prop :=
  ∀ (s : State) (f : FileField), s.resolve f = .status →
    (∃ t, exec (.clrf f) s = .next t ∧
      t.status = if s.dev.toPdWritable then 0x04 else (s.status &&& 0x18) ||| 0x04) ∧
    (∃ t, exec (.movwf f) s = .next t ∧
      t.status = if s.dev.toPdWritable then s.w else (s.w &&& 0xE7) ||| (s.status &&& 0x18)) ∧
    (∃ t, exec (.bsf f 0) s = .next t ∧ t.status = s.status ||| 0x01) ∧
    ∃ t, exec (.rlf f .file) s = .next t ∧ t.status.getLsbD 0 = s.status.getLsbD 7 ∧
      ∀ n, n < 3 ∨ 5 ≤ n → n < 8 → n ≠ 0 → t.status.getLsbD n = s.status.getLsbD (n - 1)

/-- R71, D15 (c) (PSA PRESUMED, entry 15): every instruction that stores to TMR0 clears the prescaler count, unless the
prescaler is known to be assigned to the WDT. -/
def Obligations.Tmr0ClearsPrescaler : Prop :=
  ∀ (i : Instr) (s t : State) (f : FileField),
    storesTo i = some f → s.resolve f = .tmr0 → exec i s = .next t →
    t.psc = if s.dev.prescalerFromPsa = true ∧ s.optionReg.getLsbD 3 = true then s.psc else 0

/-- R73: of the file registers but PCL and STATUS<4:0>, an instruction that stores to one changes that one alone, and one
that stores to none changes none, but for `RETFIE`, `OPTION` and `TRIS`, which change the register of their own, and
`CLRWDT` and `SLEEP`, which change the prescaler count (entry 15). STATUS<7:5>, the bank bits (entry 2), change only
where STATUS is stored to. -/
def Obligations.OnlyTheStoredRegister : Prop :=
  ∀ (i : Instr) (s t : State), exec i s = .next t →
    (∀ f, storesTo i = some f → FilesSameExcept (s.resolve f) s t) ∧
    (storesTo i = none → i ≠ .retfie → i ≠ .option → (∀ p, i ≠ .tris p) → i ≠ .clrwdt → i ≠ .sleep →
      FilesSame s t) ∧
    (i = .retfie → FilesSameExcept .intcon s t) ∧ (i = .option → FilesSameExcept .optionReg s t) ∧
    (∀ n p, i = .tris n → trisPort n = some p → FilesSameExcept (.tris p) s t) ∧
    (i = .clrwdt ∨ i = .sleep → FilesSame s { t with psc := s.psc })

/-- R80, R66, R67: a byte stored in general purpose memory is what the next read of it gives, and no other byte changed;
and what a read of each special function register gives, before and after W is stored in it. PCLATH has five bits
(entry 22). Stored through INDF, FSR designates another register for the read, so its second clause is for the direct
operand. PCL, STATUS and the ports as destinations have statements of their own. -/
def Obligations.StoreThenLoad : Prop :=
  ∀ (s : State) (f : FileField),
    (∀ a, s.resolve f = .ram a →
      ∃ t u, exec (.movwf f) s = .next t ∧ exec (.movf f .w) t = .next u ∧ u.w = s.w ∧
        ∀ b, b ≠ a → Memory.read u.ram b = Memory.read s.ram b) ∧
    (s.resolve f = .tmr0 → ReadsAs s f s.tmr0 ∧ ReadsBack s f s.w) ∧
    (s.resolve f = .status → ReadsAs s f s.status) ∧
    (s.resolve f = .fsr → ReadsAs s f s.fsr ∧ (f ≠ 0 → ReadsBack s f s.w)) ∧
    (s.resolve f = .pclath → ReadsAs s f (0#3 ++ s.pclath) ∧ ReadsBack s f (s.w &&& 0x1F)) ∧
    (s.resolve f = .intcon → ReadsAs s f s.intcon ∧ ReadsBack s f s.w) ∧
    (s.resolve f = .optionReg → ReadsAs s f s.optionReg ∧ ReadsBack s f s.w) ∧
    ∀ p, s.resolve f = .tris p → ReadsAs s f (s.port p).tris ∧ ReadsBack s f s.w

/-! ### Interrupts, SLEEP, watchdog, reset -/

/-- R205, D12, PRESUMED (entry 12; the stack entries 7, 8): interrupt entry pushes the pc, clears GIE, goes to INT_VECTOR, and changes nothing
else. -/
def Obligations.InterruptEntry : Prop :=
  ∀ s : State, s.TakesInterrupt →
    ∃ t, step s = .next t ∧ t.pc = s.dev.intVector ∧ PushedEntry s.afterUpdates t s.pc ∧
      t.intcon = s.afterUpdates.intcon &&& 0x7F ∧ t.w = s.w ∧ OutsideStack .intcon s.afterUpdates t

/-- R203, R204 (PRESUMED in part, entries 12, 13, 25): where nothing requests an interrupt, or GIE is 0 after the device's
updates, none is taken: the instruction runs, in the state after the updates. -/
def Obligations.MaskedInterruptWaits : Prop :=
  ∀ (s : State) (w : InstrWord), s.nextBoundary.mclr = false → s.nextBoundary.wdt = false → s.asleep = false →
    s.nextBoundary.irq = false ∨ s.afterUpdates.intcon.getLsbD 7 = false → s.afterUpdates.fetch = some w →
    step s = exec (decode w) s.afterUpdates

/-- R207, R205 (entry 12; the stack entries 7, 8): `RETFIE` undoes interrupt entry. -/
def Obligations.InterruptThenRetfie : Prop :=
  ∀ s : State, s.TakesInterrupt →
    ∃ t u, step s = .next t ∧ exec .retfie t = .next u ∧ u.pc = s.pc ∧ u.intcon = s.afterUpdates.intcon ∧
      (∀ n v, n + 1 < s.dev.stackDepth → s.stackEntry n = some v → u.stackEntry n = some v) ∧
      (s.held < s.dev.stackDepth → u.held = s.held) ∧ u.w = s.w ∧ u.status = s.status ∧ u.pclath = s.pclath ∧ u.fsr = s.fsr ∧
      ∀ a, Memory.read u.ram a = Memory.read s.ram a

/-- R211, R209, D16, PRESUMED (entry 20; the places of TO and PD entry 2): an asleep core waits; a request wakes it, and a
time-out wakes it with TO and PD cleared, and the instruction after the `SLEEP` runs, whatever GIE is. Where a time-out
and a request come at one boundary, the core wakes as by the time-out: the spec gives no order between them, and this one
is the model's (entry 32, DEDUCED). -/
def Obligations.SleepWaitsAndWakes : Prop :=
  ∀ s : State, s.asleep = true → s.nextBoundary.mclr = false →
    (s.nextBoundary.wdt = false → s.nextBoundary.irq = false →
      step s = .next s.afterUpdates ∧ s.afterUpdates.asleep = true) ∧
    (∀ w, s.afterUpdates.fetch = some w →
      (s.nextBoundary.wdt = false → s.nextBoundary.irq = true →
        step s = exec (decode w) { s.afterUpdates with asleep := false }) ∧
      (s.nextBoundary.wdt = true →
        step s = exec (decode w) { s.afterUpdates with asleep := false, status := s.status &&& 0xE7 }))

/-- R209, R230, R47, PRESUMED (entries 11, 19; the places of TO and PD entry 2): a watchdog time-out while running and the
external reset start again at RESET_VECTOR, each leaving its own TO and PD. Where both come at one boundary, the external
reset's TO and PD are left: the spec gives no order between them, and this one is the model's (entry 32, DEDUCED). -/
def Obligations.Resets : Prop :=
  ∀ s : State,
    (s.nextBoundary.mclr = false → s.nextBoundary.wdt = true → s.asleep = false →
      ∃ t, step s = .next t ∧ AfterReset s t false true) ∧
    (s.nextBoundary.mclr = true → s.asleep = true → ∃ t, step s = .next t ∧ AfterReset s t true false) ∧
    (s.nextBoundary.mclr = true → s.asleep = false →
      ∃ t, step s = .next t ∧ AfterReset s t s.flagTO s.flagPD)

/-- R204, D15 (b): the device's updates come before the instruction and change nothing but pins, TMR0, INTCON<6:0>, the
WDT counter and the prescaler count: never GIE. That any of the seven bits may change is the model's choice (entry 25). -/
def Obligations.DeviceUpdates : Prop :=
  ∀ s : State,
    s.afterUpdates.w = s.w ∧ s.afterUpdates.pc = s.pc ∧ s.afterUpdates.pclath = s.pclath ∧
    (∀ n, s.afterUpdates.stackEntry n = s.stackEntry n) ∧ s.afterUpdates.held = s.held ∧
    s.afterUpdates.status = s.status ∧ s.afterUpdates.fsr = s.fsr ∧
    s.afterUpdates.intcon.getLsbD 7 = s.intcon.getLsbD 7 ∧ s.afterUpdates.optionReg = s.optionReg ∧
    (∀ p, (s.afterUpdates.port p).latch = (s.port p).latch ∧ (s.afterUpdates.port p).tris = (s.port p).tris) ∧
    s.afterUpdates.ram = s.ram ∧ s.afterUpdates.program = s.program ∧ s.afterUpdates.asleep = s.asleep ∧
    s.afterUpdates.dev = s.dev ∧ s.afterUpdates.inputs = s.inputs.tail

/-- R47, R28, D18, PRESUMED by the spec (entry 11): the values the table gives after power-on. Nothing is said of what
it leaves unknown (entries 17, 18). -/
def Obligations.ResetValues : Prop :=
  State.reset.pc = 0x0000 ∧ State.reset.pclath = 0x00 ∧ State.reset.held = 0 ∧
    State.reset.status.extractLsb' 3 5 = 0b00011#5 ∧ State.reset.intcon.extractLsb' 1 7 = 0#7 ∧
    State.reset.optionReg = 0xFF ∧ (∀ p, (State.reset.port p).tris = 0xFF) ∧ State.reset.wdt = 0 ∧
    State.reset.psc = 0 ∧ State.reset.asleep = false

/-- The invariant holds after power-on. -/
def Obligations.ResetInv : Prop := State.reset.Inv

/-- Every step keeps the invariant: both memories canonical, data memory within the device, STACK_DEPTH slots in the
return stack and at most as many entries held (R30, R61, R62, R65; entries 7, 18, 27). -/
def Obligations.StepKeepsInv : Prop := ∀ s t : State, s.Inv → step s = .next t → t.Inv

/-! ### The whole machine -/

/-- R61, R83: no step writes program memory, nor the device's parameters (entry 27). -/
def Obligations.ProgramNeverWritten : Prop :=
  ∀ s t : State, step s = .next t → t.program = s.program ∧ t.dev = s.dev

/-- R61: no instruction reads program memory as data: with another program it does the same. -/
def Obligations.ProgramIsNoData : Prop :=
  ∀ (i : Instr) (s : State) (m : List (Nat × InstrWord)),
    (∀ t, exec i s = .next t → exec i { s with program := m } = .next { t with program := m }) ∧
    (∀ r, exec i s = .fault r → exec i { s with program := m } = .fault r) ∧
    ∀ r, exec i s = .refused r → exec i { s with program := m } = .refused r

/-- R35, R31 (the places of TO and PD PRESUMED, entry 2): no instruction but `CLRWDT` and `SLEEP` changes TO or PD,
unless it stores to STATUS on a device where they are writable (entry 10). -/
def Obligations.ToPdWriters : Prop :=
  ∀ (i : Instr) (s t : State), exec i s = .next t → i ≠ .clrwdt → i ≠ .sleep →
    s.dev.toPdWritable = false ∨ (∀ f, storesTo i = some f → s.resolve f ≠ .status) →
    t.flagTO = s.flagTO ∧ t.flagPD = s.flagPD

/-- R27, R203: PCLATH changes only by a store to it; GIE only by a store to INTCON or by `RETFIE`. -/
def Obligations.PclathAndGieWriters : Prop :=
  ∀ (i : Instr) (s t : State), exec i s = .next t →
    ((∀ f, storesTo i = some f → s.resolve f ≠ .pclath) → t.pclath = s.pclath) ∧
    ((∀ f, storesTo i = some f → s.resolve f ≠ .intcon) → i ≠ .retfie → t.gie = s.gie)

/-- R239: an instruction of one cycle goes on to the next address; one of two cycles is a transfer, a skip by one word,
or a store to PCL. -/
def Obligations.CyclesAndThePc : Prop :=
  ∀ (i : Instr) (s t : State), exec i s = .next t →
    (cycles i s = 1 ∧ t.pc = s.npc) ∨
    (cycles i s = 2 ∧
      ((∃ k, i = .goto k) ∨ (∃ k, i = .call k) ∨ i = .ret ∨ (∃ k, i = .retlw k) ∨ i = .retfie ∨
        t.pc = s.npc + 1 ∨ ∃ f, storesTo i = some f ∧ s.resolve f = .pcl))

/-- R200, R208: on a device whose parameters stop nothing, every instruction runs in every state, but the reserved words
and the jump that also skips (U6; entries 5, 8, 16, 23, 24). -/
def Obligations.EveryInstructionRuns : Prop :=
  ∀ (i : Instr) (s : State), i.wellFormed = true → Permissive s.dev →
    (∀ w, i ≠ .reserved w) →
    (∀ f, i = .decfsz f .file → s.resolve f = .pcl → s.operand f ≠ 1) →
    (∀ f, i = .incfsz f .file → s.resolve f = .pcl → s.operand f ≠ 0xFF) →
    ∃ t, exec i s = .next t

/-- D17: a run that is over stays over, and its state stays as it is but for what the device itself updates (statement
DeviceUpdates says what that can be); once no boundary is left in the queue, it is a fixed point of the step. The model's
choices are the step of a sleeping core that only waits (entry 20, where U10 has no successor), the queue of boundaries
(entry 13), and that a reset to come keeps a `GOTO` to itself from being over (entry 33, DEDUCED). -/
def Obligations.HaltedStays : Prop :=
  ∀ s : State, s.Halted →
    step s = .next s.afterUpdates ∧ s.afterUpdates.Halted ∧
    (s.nextBoundary.events = [] → step s = .next { s with inputs := s.inputs.tail }) ∧
    (s.inputs = [] → step s = .next s)

end Slice0Statements
end

