-- ==== Sys2Proof/Laws/Memory.lean ====
section
/-! SUPPORT. The laws of the two memories: read after write, every other address unchanged, and the
canonical form kept. -/

namespace Sys2Proof.Machine

variable {α : Type}

theorem cellLookup_insert_same (a : Nat) (v : α) (m : List (Nat × α)) :
    cellLookup a (cellInsert a v m) = some v := by
  induction m with
  | nil => simp [cellInsert, cellLookup]
  | cons c rest ih =>
    obtain ⟨b, u⟩ := c
    simp only [cellInsert]
    split
    · simp [cellLookup]
    · split
      · simp [cellLookup]
      · next hne => simp [cellLookup, hne, ih]

theorem cellLookup_insert_other (a b : Nat) (v : α) (m : List (Nat × α)) (h : b ≠ a) :
    cellLookup b (cellInsert a v m) = cellLookup b m := by
  induction m with
  | nil => simp [cellInsert, cellLookup, h]
  | cons c rest ih =>
    obtain ⟨k, u⟩ := c
    simp only [cellInsert]
    split
    · simp [cellLookup, h]
    · split
      · next _ heq => subst heq; simp [cellLookup, h]
      · simp [cellLookup, ih]

theorem cellLookup_erase_same (a : Nat) (m : List (Nat × α)) : cellLookup a (cellErase a m) = none := by
  induction m with
  | nil => rfl
  | cons c rest ih =>
    obtain ⟨k, u⟩ := c
    simp only [cellErase]
    split
    · exact ih
    · next hne => simp [cellLookup, hne, ih]

theorem cellLookup_erase_other (a b : Nat) (m : List (Nat × α)) (h : b ≠ a) :
    cellLookup b (cellErase a m) = cellLookup b m := by
  induction m with
  | nil => rfl
  | cons c rest ih =>
    obtain ⟨k, u⟩ := c
    simp only [cellErase]
    split
    · next heq => subst heq; simp [cellLookup, h, ih]
    · simp [cellLookup, ih]

theorem mem_cellErase {a : Nat} {c : Nat × α} {m : List (Nat × α)} (h : c ∈ cellErase a m) : c ∈ m := by
  induction m with
  | nil => simp [cellErase] at h
  | cons x rest ih =>
    obtain ⟨k, u⟩ := x
    simp only [cellErase] at h
    split at h
    · exact List.mem_cons_of_mem _ (ih h)
    · rcases List.mem_cons.mp h with rfl | h
      · exact List.mem_cons_self
      · exact List.mem_cons_of_mem _ (ih h)

theorem mem_cellInsert {a : Nat} {v : α} {c : Nat × α} {m : List (Nat × α)} (h : c ∈ cellInsert a v m) :
    c = (a, v) ∨ c ∈ m := by
  induction m with
  | nil => exact .inl (by simpa [cellInsert] using h)
  | cons x rest ih =>
    obtain ⟨k, u⟩ := x
    simp only [cellInsert] at h
    split at h
    · simpa using h
    · split at h
      · rcases List.mem_cons.mp h with h | h
        · exact .inl h
        · exact .inr (List.mem_cons_of_mem _ h)
      · rcases List.mem_cons.mp h with rfl | h
        · exact .inr List.mem_cons_self
        · exact (ih h).imp_right (List.mem_cons_of_mem _)

theorem cellsRise_erase (a : Nat) (m : List (Nat × α)) (h : cellsRise m) : cellsRise (cellErase a m) := by
  induction m with
  | nil => exact h
  | cons x rest ih =>
    obtain ⟨k, u⟩ := x
    obtain ⟨h1, h2⟩ := List.pairwise_cons.mp h
    simp only [cellErase]
    split
    · exact ih h2
    · exact List.pairwise_cons.mpr ⟨fun c hc => h1 c (mem_cellErase hc), ih h2⟩

theorem cellsRise_insert (a : Nat) (v : α) (m : List (Nat × α)) (h : cellsRise m) :
    cellsRise (cellInsert a v m) := by
  induction m with
  | nil => simp [cellInsert]
  | cons x rest ih =>
    obtain ⟨k, u⟩ := x
    obtain ⟨h1, h2⟩ := List.pairwise_cons.mp h
    simp only [cellInsert]
    split
    · next hlt =>
      refine List.pairwise_cons.mpr ⟨fun c hc => ?_, h⟩
      rcases List.mem_cons.mp hc with rfl | hc
      · exact hlt
      · exact Nat.lt_trans hlt (h1 c hc)
    · split
      · next heq => subst heq; exact List.pairwise_cons.mpr ⟨h1, h2⟩
      · next hnlt hne =>
        refine List.pairwise_cons.mpr ⟨fun c hc => ?_, ih h2⟩
        rcases mem_cellInsert hc with rfl | hc
        · exact Nat.lt_of_le_of_ne (Nat.le_of_not_lt hnlt) (Ne.symm hne)
        · exact h1 c hc

/-! ### Data memory -/

@[simp] theorem read_write_same (m : List Host.Cell) (a : Nat) (v : Byte) :
    Memory.read (Memory.write m a v) a = v := by
  unfold Memory.read Memory.write
  split
  · next h => rw [cellLookup_erase_same, h]; rfl
  · rw [cellLookup_insert_same]; rfl

theorem read_write_other (m : List Host.Cell) (a b : Nat) (v : Byte) (h : b ≠ a) :
    Memory.read (Memory.write m a v) b = Memory.read m b := by
  unfold Memory.read Memory.write
  split
  · rw [cellLookup_erase_other _ _ _ h]
  · rw [cellLookup_insert_other _ _ _ _ h]

/-- Every entry after a write was there before, or is the one written. -/
theorem mem_write {m : List Host.Cell} {a : Nat} {v : Byte} {c : Host.Cell} (h : c ∈ Memory.write m a v) :
    c ∈ m ∨ (c = (a, v) ∧ v ≠ Memory.unwritten) := by
  unfold Memory.write at h
  split at h
  · exact .inl (mem_cellErase h)
  · next hv => exact (mem_cellInsert h).symm.imp_right (fun e => ⟨e, hv⟩)

/-- A write to an address of data memory keeps the canonical form. -/
theorem write_wf {m : List Host.Cell} {a : Nat} (v : Byte) (ha : a < 512) (h : Memory.wf m) :
    Memory.wf (Memory.write m a v) := by
  refine ⟨?_, fun c hc => ?_⟩
  · unfold Memory.write
    split
    · exact cellsRise_erase a m h.1
    · exact cellsRise_insert a v m h.1
  · rcases mem_write hc with hc | ⟨rfl, hv⟩
    · exact h.2 c hc
    · exact ⟨ha, hv⟩

theorem reset_ram_wf : Memory.wf State.reset.ram := by decide

/-! ### Program memory -/

theorem program_read_place_same (m : List (Nat × InstrWord)) (a : ProgAddr) (w : InstrWord) :
    Program.read (Program.place m a w) a = some w := cellLookup_insert_same _ _ _

theorem program_read_place_other (m : List (Nat × InstrWord)) (a b : ProgAddr) (w : InstrWord) (h : b ≠ a) :
    Program.read (Program.place m a w) b = Program.read m b :=
  cellLookup_insert_other _ _ _ _ (fun e => h (BitVec.eq_of_toNat_eq e))

theorem program_place_wf {m : List (Nat × InstrWord)} (a : ProgAddr) (w : InstrWord) (h : Program.wf m) :
    Program.wf (Program.place m a w) := by
  refine ⟨cellsRise_insert _ _ _ h.1, fun c hc => ?_⟩
  rcases mem_cellInsert hc with rfl | hc
  · exact a.isLt
  · exact h.2 c hc

end Sys2Proof.Machine
end

