-- ==== Sys2Proof/Laws/State.lean ====
section
/-! SUPPORT. One lemma per field per update of the state, so that no proof unfolds a record update. -/

namespace Sys2Proof.Machine

variable (s : State)

/-! ### advance -/

@[simp] theorem advance_w : s.advance.w = s.w := rfl
@[simp] theorem advance_pc : s.advance.pc = s.npc := rfl
@[simp] theorem advance_pclath : s.advance.pclath = s.pclath := rfl
@[simp] theorem advance_tos : s.advance.tos = s.tos := rfl
@[simp] theorem advance_below : s.advance.below = s.below := rfl
@[simp] theorem advance_held : s.advance.held = s.held := rfl
@[simp] theorem advance_status : s.advance.status = s.status := rfl
@[simp] theorem advance_fsr : s.advance.fsr = s.fsr := rfl
@[simp] theorem advance_intcon : s.advance.intcon = s.intcon := rfl
@[simp] theorem advance_optionReg : s.advance.optionReg = s.optionReg := rfl
@[simp] theorem advance_tmr0 : s.advance.tmr0 = s.tmr0 := rfl
@[simp] theorem advance_portA : s.advance.portA = s.portA := rfl
@[simp] theorem advance_portB : s.advance.portB = s.portB := rfl
@[simp] theorem advance_portC : s.advance.portC = s.portC := rfl
@[simp] theorem advance_ram : s.advance.ram = s.ram := rfl
@[simp] theorem advance_program : s.advance.program = s.program := rfl
@[simp] theorem advance_wdt : s.advance.wdt = s.wdt := rfl
@[simp] theorem advance_psc : s.advance.psc = s.psc := rfl
@[simp] theorem advance_asleep : s.advance.asleep = s.asleep := rfl
@[simp] theorem advance_inputs : s.advance.inputs = s.inputs := rfl
@[simp] theorem advance_dev : s.advance.dev = s.dev := rfl
@[simp] theorem advance_draws : s.advance.draws = s.draws := rfl

/-! ### skip -/

@[simp] theorem skip_w : s.skip.w = s.w := rfl
@[simp] theorem skip_pc : s.skip.pc = s.pc + 1 := rfl
@[simp] theorem skip_pclath : s.skip.pclath = s.pclath := rfl
@[simp] theorem skip_tos : s.skip.tos = s.tos := rfl
@[simp] theorem skip_below : s.skip.below = s.below := rfl
@[simp] theorem skip_held : s.skip.held = s.held := rfl
@[simp] theorem skip_status : s.skip.status = s.status := rfl
@[simp] theorem skip_fsr : s.skip.fsr = s.fsr := rfl
@[simp] theorem skip_intcon : s.skip.intcon = s.intcon := rfl
@[simp] theorem skip_optionReg : s.skip.optionReg = s.optionReg := rfl
@[simp] theorem skip_tmr0 : s.skip.tmr0 = s.tmr0 := rfl
@[simp] theorem skip_portA : s.skip.portA = s.portA := rfl
@[simp] theorem skip_portB : s.skip.portB = s.portB := rfl
@[simp] theorem skip_portC : s.skip.portC = s.portC := rfl
@[simp] theorem skip_ram : s.skip.ram = s.ram := rfl
@[simp] theorem skip_program : s.skip.program = s.program := rfl
@[simp] theorem skip_wdt : s.skip.wdt = s.wdt := rfl
@[simp] theorem skip_psc : s.skip.psc = s.psc := rfl
@[simp] theorem skip_asleep : s.skip.asleep = s.asleep := rfl
@[simp] theorem skip_inputs : s.skip.inputs = s.inputs := rfl
@[simp] theorem skip_dev : s.skip.dev = s.dev := rfl
@[simp] theorem skip_draws : s.skip.draws = s.draws := rfl

/-! ### withFlags -/

@[simp] theorem withFlags_w (u : FlagUpdate) : (s.withFlags u).w = s.w := rfl
@[simp] theorem withFlags_pc (u : FlagUpdate) : (s.withFlags u).pc = s.pc := rfl
@[simp] theorem withFlags_pclath (u : FlagUpdate) : (s.withFlags u).pclath = s.pclath := rfl
@[simp] theorem withFlags_tos (u : FlagUpdate) : (s.withFlags u).tos = s.tos := rfl
@[simp] theorem withFlags_below (u : FlagUpdate) : (s.withFlags u).below = s.below := rfl
@[simp] theorem withFlags_held (u : FlagUpdate) : (s.withFlags u).held = s.held := rfl
@[simp] theorem withFlags_status (u : FlagUpdate) : (s.withFlags u).status = u.apply s.status := rfl
@[simp] theorem withFlags_fsr (u : FlagUpdate) : (s.withFlags u).fsr = s.fsr := rfl
@[simp] theorem withFlags_intcon (u : FlagUpdate) : (s.withFlags u).intcon = s.intcon := rfl
@[simp] theorem withFlags_optionReg (u : FlagUpdate) : (s.withFlags u).optionReg = s.optionReg := rfl
@[simp] theorem withFlags_tmr0 (u : FlagUpdate) : (s.withFlags u).tmr0 = s.tmr0 := rfl
@[simp] theorem withFlags_portA (u : FlagUpdate) : (s.withFlags u).portA = s.portA := rfl
@[simp] theorem withFlags_portB (u : FlagUpdate) : (s.withFlags u).portB = s.portB := rfl
@[simp] theorem withFlags_portC (u : FlagUpdate) : (s.withFlags u).portC = s.portC := rfl
@[simp] theorem withFlags_ram (u : FlagUpdate) : (s.withFlags u).ram = s.ram := rfl
@[simp] theorem withFlags_program (u : FlagUpdate) : (s.withFlags u).program = s.program := rfl
@[simp] theorem withFlags_wdt (u : FlagUpdate) : (s.withFlags u).wdt = s.wdt := rfl
@[simp] theorem withFlags_psc (u : FlagUpdate) : (s.withFlags u).psc = s.psc := rfl
@[simp] theorem withFlags_asleep (u : FlagUpdate) : (s.withFlags u).asleep = s.asleep := rfl
@[simp] theorem withFlags_inputs (u : FlagUpdate) : (s.withFlags u).inputs = s.inputs := rfl
@[simp] theorem withFlags_dev (u : FlagUpdate) : (s.withFlags u).dev = s.dev := rfl
@[simp] theorem withFlags_draws (u : FlagUpdate) : (s.withFlags u).draws = s.draws := rfl

/-! ### pushed -/

@[simp] theorem pushed_w (v : ProgAddr) : (s.pushed v).w = s.w := rfl
@[simp] theorem pushed_pc (v : ProgAddr) : (s.pushed v).pc = s.pc := rfl
@[simp] theorem pushed_pclath (v : ProgAddr) : (s.pushed v).pclath = s.pclath := rfl
@[simp] theorem pushed_tos (v : ProgAddr) : (s.pushed v).tos = v := rfl
@[simp] theorem pushed_below (v : ProgAddr) : (s.pushed v).below = (s.tos :: s.below).take (s.dev.stackDepth - 1) := rfl
@[simp] theorem pushed_held (v : ProgAddr) : (s.pushed v).held = min s.dev.stackDepth (s.held + 1) := rfl
@[simp] theorem pushed_status (v : ProgAddr) : (s.pushed v).status = s.status := rfl
@[simp] theorem pushed_fsr (v : ProgAddr) : (s.pushed v).fsr = s.fsr := rfl
@[simp] theorem pushed_intcon (v : ProgAddr) : (s.pushed v).intcon = s.intcon := rfl
@[simp] theorem pushed_optionReg (v : ProgAddr) : (s.pushed v).optionReg = s.optionReg := rfl
@[simp] theorem pushed_tmr0 (v : ProgAddr) : (s.pushed v).tmr0 = s.tmr0 := rfl
@[simp] theorem pushed_portA (v : ProgAddr) : (s.pushed v).portA = s.portA := rfl
@[simp] theorem pushed_portB (v : ProgAddr) : (s.pushed v).portB = s.portB := rfl
@[simp] theorem pushed_portC (v : ProgAddr) : (s.pushed v).portC = s.portC := rfl
@[simp] theorem pushed_ram (v : ProgAddr) : (s.pushed v).ram = s.ram := rfl
@[simp] theorem pushed_program (v : ProgAddr) : (s.pushed v).program = s.program := rfl
@[simp] theorem pushed_wdt (v : ProgAddr) : (s.pushed v).wdt = s.wdt := rfl
@[simp] theorem pushed_psc (v : ProgAddr) : (s.pushed v).psc = s.psc := rfl
@[simp] theorem pushed_asleep (v : ProgAddr) : (s.pushed v).asleep = s.asleep := rfl
@[simp] theorem pushed_inputs (v : ProgAddr) : (s.pushed v).inputs = s.inputs := rfl
@[simp] theorem pushed_dev (v : ProgAddr) : (s.pushed v).dev = s.dev := rfl
@[simp] theorem pushed_draws (v : ProgAddr) : (s.pushed v).draws = s.draws := rfl

/-! ### popped -/

@[simp] theorem popped_w : s.popped.w = s.w := rfl
@[simp] theorem popped_pc : s.popped.pc = s.pc := rfl
@[simp] theorem popped_pclath : s.popped.pclath = s.pclath := rfl
@[simp] theorem popped_tos : s.popped.tos = s.below.headD s.tos := rfl
@[simp] theorem popped_below : s.popped.below = (s.below ++ [s.tos]).tail := rfl
@[simp] theorem popped_held : s.popped.held = s.held - 1 := rfl
@[simp] theorem popped_status : s.popped.status = s.status := rfl
@[simp] theorem popped_fsr : s.popped.fsr = s.fsr := rfl
@[simp] theorem popped_intcon : s.popped.intcon = s.intcon := rfl
@[simp] theorem popped_optionReg : s.popped.optionReg = s.optionReg := rfl
@[simp] theorem popped_tmr0 : s.popped.tmr0 = s.tmr0 := rfl
@[simp] theorem popped_portA : s.popped.portA = s.portA := rfl
@[simp] theorem popped_portB : s.popped.portB = s.portB := rfl
@[simp] theorem popped_portC : s.popped.portC = s.portC := rfl
@[simp] theorem popped_ram : s.popped.ram = s.ram := rfl
@[simp] theorem popped_program : s.popped.program = s.program := rfl
@[simp] theorem popped_wdt : s.popped.wdt = s.wdt := rfl
@[simp] theorem popped_psc : s.popped.psc = s.psc := rfl
@[simp] theorem popped_asleep : s.popped.asleep = s.asleep := rfl
@[simp] theorem popped_inputs : s.popped.inputs = s.inputs := rfl
@[simp] theorem popped_dev : s.popped.dev = s.dev := rfl
@[simp] theorem popped_draws : s.popped.draws = s.draws := rfl

/-! ### setGie -/

@[simp] theorem setGie_w (b : Bool) : (s.setGie b).w = s.w := rfl
@[simp] theorem setGie_pc (b : Bool) : (s.setGie b).pc = s.pc := rfl
@[simp] theorem setGie_pclath (b : Bool) : (s.setGie b).pclath = s.pclath := rfl
@[simp] theorem setGie_tos (b : Bool) : (s.setGie b).tos = s.tos := rfl
@[simp] theorem setGie_below (b : Bool) : (s.setGie b).below = s.below := rfl
@[simp] theorem setGie_held (b : Bool) : (s.setGie b).held = s.held := rfl
@[simp] theorem setGie_status (b : Bool) : (s.setGie b).status = s.status := rfl
@[simp] theorem setGie_fsr (b : Bool) : (s.setGie b).fsr = s.fsr := rfl
@[simp] theorem setGie_intcon (b : Bool) : (s.setGie b).intcon = setBit s.intcon Config.bitGIE b := rfl
@[simp] theorem setGie_optionReg (b : Bool) : (s.setGie b).optionReg = s.optionReg := rfl
@[simp] theorem setGie_tmr0 (b : Bool) : (s.setGie b).tmr0 = s.tmr0 := rfl
@[simp] theorem setGie_portA (b : Bool) : (s.setGie b).portA = s.portA := rfl
@[simp] theorem setGie_portB (b : Bool) : (s.setGie b).portB = s.portB := rfl
@[simp] theorem setGie_portC (b : Bool) : (s.setGie b).portC = s.portC := rfl
@[simp] theorem setGie_ram (b : Bool) : (s.setGie b).ram = s.ram := rfl
@[simp] theorem setGie_program (b : Bool) : (s.setGie b).program = s.program := rfl
@[simp] theorem setGie_wdt (b : Bool) : (s.setGie b).wdt = s.wdt := rfl
@[simp] theorem setGie_psc (b : Bool) : (s.setGie b).psc = s.psc := rfl
@[simp] theorem setGie_asleep (b : Bool) : (s.setGie b).asleep = s.asleep := rfl
@[simp] theorem setGie_inputs (b : Bool) : (s.setGie b).inputs = s.inputs := rfl
@[simp] theorem setGie_dev (b : Bool) : (s.setGie b).dev = s.dev := rfl
@[simp] theorem setGie_draws (b : Bool) : (s.setGie b).draws = s.draws := rfl

/-! ### setToPd -/

@[simp] theorem setToPd_w (a b : Bool) : (s.setToPd a b).w = s.w := rfl
@[simp] theorem setToPd_pc (a b : Bool) : (s.setToPd a b).pc = s.pc := rfl
@[simp] theorem setToPd_pclath (a b : Bool) : (s.setToPd a b).pclath = s.pclath := rfl
@[simp] theorem setToPd_tos (a b : Bool) : (s.setToPd a b).tos = s.tos := rfl
@[simp] theorem setToPd_below (a b : Bool) : (s.setToPd a b).below = s.below := rfl
@[simp] theorem setToPd_held (a b : Bool) : (s.setToPd a b).held = s.held := rfl
@[simp] theorem setToPd_status (a b : Bool) : (s.setToPd a b).status = setBit (setBit s.status Config.bitTO a) Config.bitPD b := rfl
@[simp] theorem setToPd_fsr (a b : Bool) : (s.setToPd a b).fsr = s.fsr := rfl
@[simp] theorem setToPd_intcon (a b : Bool) : (s.setToPd a b).intcon = s.intcon := rfl
@[simp] theorem setToPd_optionReg (a b : Bool) : (s.setToPd a b).optionReg = s.optionReg := rfl
@[simp] theorem setToPd_tmr0 (a b : Bool) : (s.setToPd a b).tmr0 = s.tmr0 := rfl
@[simp] theorem setToPd_portA (a b : Bool) : (s.setToPd a b).portA = s.portA := rfl
@[simp] theorem setToPd_portB (a b : Bool) : (s.setToPd a b).portB = s.portB := rfl
@[simp] theorem setToPd_portC (a b : Bool) : (s.setToPd a b).portC = s.portC := rfl
@[simp] theorem setToPd_ram (a b : Bool) : (s.setToPd a b).ram = s.ram := rfl
@[simp] theorem setToPd_program (a b : Bool) : (s.setToPd a b).program = s.program := rfl
@[simp] theorem setToPd_wdt (a b : Bool) : (s.setToPd a b).wdt = s.wdt := rfl
@[simp] theorem setToPd_psc (a b : Bool) : (s.setToPd a b).psc = s.psc := rfl
@[simp] theorem setToPd_asleep (a b : Bool) : (s.setToPd a b).asleep = s.asleep := rfl
@[simp] theorem setToPd_inputs (a b : Bool) : (s.setToPd a b).inputs = s.inputs := rfl
@[simp] theorem setToPd_dev (a b : Bool) : (s.setToPd a b).dev = s.dev := rfl
@[simp] theorem setToPd_draws (a b : Bool) : (s.setToPd a b).draws = s.draws := rfl

/-! ### clearWatchdog -/

@[simp] theorem clearWatchdog_w : s.clearWatchdog.w = s.w := rfl
@[simp] theorem clearWatchdog_pc : s.clearWatchdog.pc = s.pc := rfl
@[simp] theorem clearWatchdog_pclath : s.clearWatchdog.pclath = s.pclath := rfl
@[simp] theorem clearWatchdog_tos : s.clearWatchdog.tos = s.tos := rfl
@[simp] theorem clearWatchdog_below : s.clearWatchdog.below = s.below := rfl
@[simp] theorem clearWatchdog_held : s.clearWatchdog.held = s.held := rfl
@[simp] theorem clearWatchdog_status : s.clearWatchdog.status = s.status := rfl
@[simp] theorem clearWatchdog_fsr : s.clearWatchdog.fsr = s.fsr := rfl
@[simp] theorem clearWatchdog_intcon : s.clearWatchdog.intcon = s.intcon := rfl
@[simp] theorem clearWatchdog_optionReg : s.clearWatchdog.optionReg = s.optionReg := rfl
@[simp] theorem clearWatchdog_tmr0 : s.clearWatchdog.tmr0 = s.tmr0 := rfl
@[simp] theorem clearWatchdog_portA : s.clearWatchdog.portA = s.portA := rfl
@[simp] theorem clearWatchdog_portB : s.clearWatchdog.portB = s.portB := rfl
@[simp] theorem clearWatchdog_portC : s.clearWatchdog.portC = s.portC := rfl
@[simp] theorem clearWatchdog_ram : s.clearWatchdog.ram = s.ram := rfl
@[simp] theorem clearWatchdog_program : s.clearWatchdog.program = s.program := rfl
@[simp] theorem clearWatchdog_wdt : s.clearWatchdog.wdt = 0 := rfl
@[simp] theorem clearWatchdog_psc : s.clearWatchdog.psc = s.pscAfterClear := rfl
@[simp] theorem clearWatchdog_asleep : s.clearWatchdog.asleep = s.asleep := rfl
@[simp] theorem clearWatchdog_inputs : s.clearWatchdog.inputs = s.inputs := rfl
@[simp] theorem clearWatchdog_dev : s.clearWatchdog.dev = s.dev := rfl
@[simp] theorem clearWatchdog_draws : s.clearWatchdog.draws = s.draws := rfl

/-! ### awake -/

@[simp] theorem awake_w : s.awake.w = s.w := rfl
@[simp] theorem awake_pc : s.awake.pc = s.pc := rfl
@[simp] theorem awake_pclath : s.awake.pclath = s.pclath := rfl
@[simp] theorem awake_tos : s.awake.tos = s.tos := rfl
@[simp] theorem awake_below : s.awake.below = s.below := rfl
@[simp] theorem awake_held : s.awake.held = s.held := rfl
@[simp] theorem awake_status : s.awake.status = s.status := rfl
@[simp] theorem awake_fsr : s.awake.fsr = s.fsr := rfl
@[simp] theorem awake_intcon : s.awake.intcon = s.intcon := rfl
@[simp] theorem awake_optionReg : s.awake.optionReg = s.optionReg := rfl
@[simp] theorem awake_tmr0 : s.awake.tmr0 = s.tmr0 := rfl
@[simp] theorem awake_portA : s.awake.portA = s.portA := rfl
@[simp] theorem awake_portB : s.awake.portB = s.portB := rfl
@[simp] theorem awake_portC : s.awake.portC = s.portC := rfl
@[simp] theorem awake_ram : s.awake.ram = s.ram := rfl
@[simp] theorem awake_program : s.awake.program = s.program := rfl
@[simp] theorem awake_wdt : s.awake.wdt = s.wdt := rfl
@[simp] theorem awake_psc : s.awake.psc = s.psc := rfl
@[simp] theorem awake_asleep : s.awake.asleep = false := rfl
@[simp] theorem awake_inputs : s.awake.inputs = s.inputs := rfl
@[simp] theorem awake_dev : s.awake.dev = s.dev := rfl
@[simp] theorem awake_draws : s.awake.draws = s.draws := rfl

/-! ### afterQuiet -/

@[simp] theorem afterQuiet_w : s.afterQuiet.w = s.w := rfl
@[simp] theorem afterQuiet_pc : s.afterQuiet.pc = s.pc := rfl
@[simp] theorem afterQuiet_pclath : s.afterQuiet.pclath = s.pclath := rfl
@[simp] theorem afterQuiet_tos : s.afterQuiet.tos = s.tos := rfl
@[simp] theorem afterQuiet_below : s.afterQuiet.below = s.below := rfl
@[simp] theorem afterQuiet_held : s.afterQuiet.held = s.held := rfl
@[simp] theorem afterQuiet_status : s.afterQuiet.status = s.status := rfl
@[simp] theorem afterQuiet_fsr : s.afterQuiet.fsr = s.fsr := rfl
@[simp] theorem afterQuiet_intcon : s.afterQuiet.intcon = s.intcon := rfl
@[simp] theorem afterQuiet_optionReg : s.afterQuiet.optionReg = s.optionReg := rfl
@[simp] theorem afterQuiet_tmr0 : s.afterQuiet.tmr0 = s.tmr0 := rfl
@[simp] theorem afterQuiet_portA : s.afterQuiet.portA = s.portA := rfl
@[simp] theorem afterQuiet_portB : s.afterQuiet.portB = s.portB := rfl
@[simp] theorem afterQuiet_portC : s.afterQuiet.portC = s.portC := rfl
@[simp] theorem afterQuiet_ram : s.afterQuiet.ram = s.ram := rfl
@[simp] theorem afterQuiet_program : s.afterQuiet.program = s.program := rfl
@[simp] theorem afterQuiet_wdt : s.afterQuiet.wdt = s.wdt := rfl
@[simp] theorem afterQuiet_psc : s.afterQuiet.psc = s.psc := rfl
@[simp] theorem afterQuiet_asleep : s.afterQuiet.asleep = s.asleep := rfl
@[simp] theorem afterQuiet_inputs : s.afterQuiet.inputs = s.inputs.tail := rfl
@[simp] theorem afterQuiet_dev : s.afterQuiet.dev = s.dev := rfl
@[simp] theorem afterQuiet_draws : s.afterQuiet.draws = s.draws := rfl

/-! ### setPort and port -/

@[simp] theorem port_a : s.port .a = s.portA := rfl
@[simp] theorem port_b : s.port .b = s.portB := rfl
@[simp] theorem port_c : s.port .c = s.portC := rfl
@[simp] theorem setPort_w (p : PortId) (r : PortRegs) : (s.setPort p r).w = s.w := by cases p <;> rfl
@[simp] theorem setPort_pc (p : PortId) (r : PortRegs) : (s.setPort p r).pc = s.pc := by cases p <;> rfl
@[simp] theorem setPort_pclath (p : PortId) (r : PortRegs) : (s.setPort p r).pclath = s.pclath := by cases p <;> rfl
@[simp] theorem setPort_tos (p : PortId) (r : PortRegs) : (s.setPort p r).tos = s.tos := by cases p <;> rfl
@[simp] theorem setPort_below (p : PortId) (r : PortRegs) : (s.setPort p r).below = s.below := by cases p <;> rfl
@[simp] theorem setPort_held (p : PortId) (r : PortRegs) : (s.setPort p r).held = s.held := by cases p <;> rfl
@[simp] theorem setPort_status (p : PortId) (r : PortRegs) : (s.setPort p r).status = s.status := by cases p <;> rfl
@[simp] theorem setPort_fsr (p : PortId) (r : PortRegs) : (s.setPort p r).fsr = s.fsr := by cases p <;> rfl
@[simp] theorem setPort_intcon (p : PortId) (r : PortRegs) : (s.setPort p r).intcon = s.intcon := by cases p <;> rfl
@[simp] theorem setPort_optionReg (p : PortId) (r : PortRegs) : (s.setPort p r).optionReg = s.optionReg := by cases p <;> rfl
@[simp] theorem setPort_tmr0 (p : PortId) (r : PortRegs) : (s.setPort p r).tmr0 = s.tmr0 := by cases p <;> rfl
@[simp] theorem setPort_ram (p : PortId) (r : PortRegs) : (s.setPort p r).ram = s.ram := by cases p <;> rfl
@[simp] theorem setPort_program (p : PortId) (r : PortRegs) : (s.setPort p r).program = s.program := by cases p <;> rfl
@[simp] theorem setPort_wdt (p : PortId) (r : PortRegs) : (s.setPort p r).wdt = s.wdt := by cases p <;> rfl
@[simp] theorem setPort_psc (p : PortId) (r : PortRegs) : (s.setPort p r).psc = s.psc := by cases p <;> rfl
@[simp] theorem setPort_asleep (p : PortId) (r : PortRegs) : (s.setPort p r).asleep = s.asleep := by cases p <;> rfl
@[simp] theorem setPort_inputs (p : PortId) (r : PortRegs) : (s.setPort p r).inputs = s.inputs := by cases p <;> rfl
@[simp] theorem setPort_dev (p : PortId) (r : PortRegs) : (s.setPort p r).dev = s.dev := by cases p <;> rfl
@[simp] theorem setPort_draws (p : PortId) (r : PortRegs) : (s.setPort p r).draws = s.draws := by cases p <;> rfl
@[simp] theorem setPort_port_same (p : PortId) (r : PortRegs) : (s.setPort p r).port p = r := by
  cases p <;> rfl
theorem setPort_port_other (p q : PortId) (r : PortRegs) (h : q ≠ p) : (s.setPort p r).port q = s.port q := by
  cases p <;> cases q <;> first | rfl | exact absurd rfl h

/-! ### writeReg: what no file write touches -/

@[simp] theorem writeReg_w (r : FileReg) (v : Byte) : (s.writeReg r v).w = s.w := by
  cases r <;> simp [State.writeReg]
@[simp] theorem writeReg_tos (r : FileReg) (v : Byte) : (s.writeReg r v).tos = s.tos := by
  cases r <;> simp [State.writeReg]
@[simp] theorem writeReg_below (r : FileReg) (v : Byte) : (s.writeReg r v).below = s.below := by
  cases r <;> simp [State.writeReg]
@[simp] theorem writeReg_held (r : FileReg) (v : Byte) : (s.writeReg r v).held = s.held := by
  cases r <;> simp [State.writeReg]
@[simp] theorem writeReg_program (r : FileReg) (v : Byte) : (s.writeReg r v).program = s.program := by
  cases r <;> simp [State.writeReg]
@[simp] theorem writeReg_wdt (r : FileReg) (v : Byte) : (s.writeReg r v).wdt = s.wdt := by
  cases r <;> simp [State.writeReg]
@[simp] theorem writeReg_asleep (r : FileReg) (v : Byte) : (s.writeReg r v).asleep = s.asleep := by
  cases r <;> simp [State.writeReg]
@[simp] theorem writeReg_inputs (r : FileReg) (v : Byte) : (s.writeReg r v).inputs = s.inputs := by
  cases r <;> simp [State.writeReg]
@[simp] theorem writeReg_dev (r : FileReg) (v : Byte) : (s.writeReg r v).dev = s.dev := by
  cases r <;> simp [State.writeReg]
@[simp] theorem writeReg_draws (r : FileReg) (v : Byte) : (s.writeReg r v).draws = s.draws := by
  cases r <;> simp [State.writeReg]

/-! ### writeReg: each register but its own -/

theorem writeReg_pc_of_ne (r : FileReg) (v : Byte) (h : r ≠ .pcl) : (s.writeReg r v).pc = s.pc := by
  cases r <;> simp_all [State.writeReg]
theorem writeReg_status_of_ne (r : FileReg) (v : Byte) (h : r ≠ .status) : (s.writeReg r v).status = s.status := by
  cases r <;> simp_all [State.writeReg]
theorem writeReg_fsr_of_ne (r : FileReg) (v : Byte) (h : r ≠ .fsr) : (s.writeReg r v).fsr = s.fsr := by
  cases r <;> simp_all [State.writeReg]
theorem writeReg_pclath_of_ne (r : FileReg) (v : Byte) (h : r ≠ .pclath) : (s.writeReg r v).pclath = s.pclath := by
  cases r <;> simp_all [State.writeReg]
theorem writeReg_intcon_of_ne (r : FileReg) (v : Byte) (h : r ≠ .intcon) : (s.writeReg r v).intcon = s.intcon := by
  cases r <;> simp_all [State.writeReg]
theorem writeReg_optionReg_of_ne (r : FileReg) (v : Byte) (h : r ≠ .optionReg) : (s.writeReg r v).optionReg = s.optionReg := by
  cases r <;> simp_all [State.writeReg]
theorem writeReg_tmr0_of_ne (r : FileReg) (v : Byte) (h : r ≠ .tmr0) : (s.writeReg r v).tmr0 = s.tmr0 := by
  cases r <;> simp_all [State.writeReg]
theorem writeReg_psc_of_ne (r : FileReg) (v : Byte) (h : r ≠ .tmr0) : (s.writeReg r v).psc = s.psc := by
  cases r <;> simp_all [State.writeReg]

end Sys2Proof.Machine
end

