-- ==== Sys2Proof/Laws/Operands.lean ====
section
/-! SUPPORT. What the flag updates and the file register access functions do, said once for the proofs. -/

namespace Sys2Proof.Machine

/-! ### Bits and flags -/

/-- A bit of a byte after one bit was given a value. -/
theorem getLsbD_setBit (v : Byte) (i j : Nat) (b : Bool) (hi : i < 8) :
    (setBit v i b).getLsbD j = if j = i then b else v.getLsbD j := by
  by_cases hj : j < 8
  · have e : decide (j < i) = false ∨ j < i := by by_cases h : j < i <;> simp [h]
    cases b <;> simp only [setBit, Bool.false_eq_true, ↓reduceIte, BitVec.getLsbD_and, BitVec.getLsbD_or,
      BitVec.getLsbD_not, BitVec.getLsbD_shiftLeft, BitVec.getLsbD_one, hj, decide_true, Bool.true_and] <;>
      by_cases h : j = i <;> simp_all <;> omega
  · have hne : j ≠ i := by omega
    rw [if_neg hne, BitVec.getLsbD_of_ge _ j (by omega), BitVec.getLsbD_of_ge _ j (by omega)]

theorem getLsbD_setBitIf (v : Byte) (i j : Nat) (b : Option Bool) (hi : i < 8) :
    (setBitIf v i b).getLsbD j = if j = i then b.getD (v.getLsbD j) else v.getLsbD j := by
  cases b <;> simp [setBitIf, getLsbD_setBit, hi]

/-- Each bit of STATUS after the flags were set (R70 step 4). -/
theorem getLsbD_apply (u : FlagUpdate) (v : Byte) (j : Nat) :
    (u.apply v).getLsbD j =
      if j = 2 then u.z.getD (v.getLsbD 2) else if j = 1 then u.dc.getD (v.getLsbD 1)
      else if j = 0 then u.c.getD (v.getLsbD 0) else v.getLsbD j := by
  unfold FlagUpdate.apply
  simp only [getLsbD_setBitIf _ _ _ _ (by decide : Config.bitZ < 8),
    getLsbD_setBitIf _ _ _ _ (by decide : Config.bitDC < 8), getLsbD_setBitIf _ _ _ _ (by decide : Config.bitC < 8)]
  by_cases h2 : j = 2
  · subst h2; simp
  · by_cases h1 : j = 1
    · subst h1; simp
    · by_cases h0 : j = 0
      · subst h0; simp
      · simp [h0, h1, h2]

/-- Setting the flags an instruction affects gives exactly them and keeps the rest. -/
theorem apply_statusIs (u : FlagUpdate) (v : Byte) : StatusIs (u.apply v) v u.c u.dc u.z where
  c := by rw [getLsbD_apply]; simp
  dc := by rw [getLsbD_apply]; simp
  z := by rw [getLsbD_apply]; simp
  upper := by
    apply BitVec.eq_of_getLsbD_eq
    intro i hi
    have h1 : ¬ 3 + i = 1 := by omega
    have h2 : ¬ 3 + i = 2 := by omega
    simp [getLsbD_apply, hi, h1, h2]

/-- The bank bits are among the bits the flags leave as in the data. -/
theorem StatusIs.bankBits {after data : Byte} {c dc z : Option Bool} (h : StatusIs after data c dc z) :
    after.extractLsb' 5 3 = data.extractLsb' 5 3 := by
  have e : ∀ v : Byte, v.extractLsb' 5 3 = (v.extractLsb' 3 5).extractLsb' 2 3 := by
    intro v
    apply BitVec.eq_of_getLsbD_eq
    intro i hi
    have h5 : 2 + i < 5 := by omega
    have e5 : 3 + (2 + i) = 5 + i := by omega
    simp [hi, h5, e5]
  rw [e, e data, h.upper]

/-- `add8` of R131 in one line. -/
theorem add8_eq (a b : Byte) :
    add8 a b = ⟨a + b, .arith (decide (256 ≤ a.toNat + b.toNat)) (decide (16 ≤ a.toNat % 16 + b.toNat % 16))
      (a + b)⟩ := by
  have e : BitVec.ofNat 8 (a.toNat + b.toNat) = a + b := by apply BitVec.eq_of_toNat_eq; simp
  unfold add8
  dsimp only
  rw [e]
  rfl

/-- `sub8` of R131 in one line: the carry out of the 2's complement method is the not-borrow. -/
theorem sub8_eq (a b : Byte) :
    sub8 a b = ⟨a - b, .arith (decide (b.toNat ≤ a.toNat)) (decide (b.toNat % 16 ≤ a.toNat % 16)) (a - b)⟩ := by
  have hn : (~~~b).toNat = 255 - b.toNat := by simp [BitVec.toNat_not]
  have ha := a.isLt
  have hb := b.isLt
  have e : BitVec.ofNat 8 (a.toNat + (~~~b).toNat + 1) = a - b := by
    apply BitVec.eq_of_toNat_eq
    rw [hn]
    simp only [BitVec.toNat_sub, BitVec.toNat_ofNat]
    congr 1
    omega
  unfold sub8
  dsimp only
  rw [e]
  congr 2
  · apply decide_eq_decide.2; omega
  · apply decide_eq_decide.2; unfold lowDigit; omega

@[simp] theorem apply_unaffected (v : Byte) : FlagUpdate.unaffected.apply v = v := rfl

/-! ### Reading and writing one register -/

/-- A file register other than PCL and STATUS holds what was written to it (R67). -/
theorem writeReg_holds (s : State) (r : FileReg) (v : Byte) : (s.writeReg r v).Holds r v := by
  cases r <;> simp [State.writeReg, State.Holds]

/-- Setting flags does not change what a file register holds. -/
theorem holds_withFlags {t : State} {r : FileReg} {v : Byte} (u : FlagUpdate) (h : t.Holds r v) :
    (t.withFlags u).Holds r v := by
  cases r <;> exact h

/-- A file write leaves every other file register alone. -/
theorem writeReg_files (s : State) (r : FileReg) (v : Byte) : FilesSameExcept r s (s.writeReg r v) where
  tmr0 := writeReg_tmr0_of_ne s r v
  psc := by
    by_cases h : r = .tmr0
    · subst h; rfl
    · rw [if_neg h, writeReg_psc_of_ne s r v h]
  bankBits := fun h => by rw [writeReg_status_of_ne s r v h]
  fsr := writeReg_fsr_of_ne s r v
  pclath := writeReg_pclath_of_ne s r v
  intcon := writeReg_intcon_of_ne s r v
  optionReg := writeReg_optionReg_of_ne s r v
  latch := by
    intro p h
    cases r with
    | port q => cases p <;> cases q <;> first | rfl | exact absurd rfl h
    | tris q => cases p <;> cases q <;> rfl
    | _ => cases p <;> rfl
  tris := by
    intro p h
    cases r with
    | port q => cases p <;> cases q <;> rfl
    | tris q => cases p <;> cases q <;> first | rfl | exact absurd rfl h
    | _ => cases p <;> rfl
  level := by
    intro p
    cases r with
    | port q => cases p <;> cases q <;> rfl
    | tris q => cases p <;> cases q <;> rfl
    | _ => cases p <;> rfl
  load := by
    intro p
    cases r with
    | port q => cases p <;> cases q <;> rfl
    | tris q => cases p <;> cases q <;> rfl
    | _ => cases p <;> rfl
  analog := by
    intro p
    cases r with
    | port q => cases p <;> cases q <;> rfl
    | tris q => cases p <;> cases q <;> rfl
    | _ => cases p <;> rfl
  ram := by
    intro a h
    cases r with
    | ram b => exact read_write_other s.ram b a v (fun e => h (e ▸ rfl))
    | port q => simp [State.writeReg]
    | tris q => simp [State.writeReg]
    | _ => rfl

/-- A file write leaves alone what no file register instruction touches. -/
theorem writeReg_rest (s : State) (r : FileReg) (v : Byte) : RestSame s (s.writeReg r v) := by
  constructor <;> simp

/-- STATUS_WR_MASK 0xE7 takes bits 7:5 and 2:0 from the data and keeps bits 4:3 (D10). -/
theorem masked_status (v st : Byte) :
    (v &&& 0xE7) ||| (st &&& ~~~0xE7) =
      (v.extractLsb' 5 3 ++ st.extractLsb' 3 2 ++ v.extractLsb' 0 3 : BitVec 8) := by
  apply BitVec.eq_of_getLsbD_eq
  intro i hi
  simp only [BitVec.getLsbD_or, BitVec.getLsbD_and, BitVec.getLsbD_not, BitVec.getLsbD_append,
    BitVec.getLsbD_extractLsb']
  rcases i with _ | _ | _ | _ | _ | _ | _ | _ | i <;> simp_all
  omega

/-- STATUS_WR_MASK 0xFF takes every bit from the data (D10). -/
theorem masked_status_all (v st : Byte) : (v &&& 0xFF) ||| (st &&& ~~~0xFF) = v := by
  rw [show (0xFF : Byte) = BitVec.allOnes 8 from rfl, BitVec.and_allOnes, BitVec.not_allOnes, BitVec.and_zero,
    BitVec.or_zero]

/-- STATUS after a file write is the data of R70 step 3. -/
theorem writeReg_status (s : State) (r : FileReg) (v : Byte) :
    (s.writeReg r v).status = s.statusData r v := by
  by_cases h : r = .status
  · subst h
    simp only [State.writeReg, State.statusData, statusMask, ↓reduceIte]
    cases s.dev.toPdWritable
    · exact masked_status v s.status
    · exact masked_status_all v s.status
  · simp [writeReg_status_of_ne s r v h, State.statusData, h]

/-- A read through the register reads what was written, but for PCL, STATUS, a port and PCLATH. -/
theorem readReg_write_ram (s : State) (a : Nat) (v : Byte) : (s.writeReg (.ram a) v).readReg (.ram a) = v := by
  simp [State.writeReg, State.readReg]

/-- A general purpose byte is found only where the device has one. -/
theorem locate_ram {dev : Device} {a : DataAddr} {b : Nat} (h : locate dev a = .ram b) :
    deviceHasRam dev b = true := by
  have hp : ∀ (p : PortId) (r : FileReg) (n : Nat), r ≠ .ram b → portReg dev p r n ≠ .ram b := by
    intro p r n hr
    unfold portReg
    split
    · exact hr
    · nofun
  have hb : ∀ n, locateBanked dev n = .ram b → deviceHasRam dev b = true := by
    intro n h
    unfold locateBanked at h
    repeat' split at h
    all_goals first
      | exact absurd h (hp _ _ _ nofun)
      | (cases h; assumption)
      | cases h
  unfold locate locateAt at h
  dsimp only at h
  repeat' split at h
  all_goals first
    | cases h
    | exact hb _ h

/-! ### The access to an operand -/

/-- An access that answers a next state was allowed, and went on with the register `f` designates. -/
theorem access_next {s t : State} {f : FileField} {k : FileReg → Result} (h : s.access f k = .next t) :
    s.Allows f ∧ k (s.resolve f) = .next t := by
  unfold State.access at h
  split at h
  · next ha => exact ⟨ha, h⟩
  · cases h

/-- An allowed access goes on. -/
theorem access_allowed {s : State} {f : FileField} (k : FileReg → Result) (h : s.Allows f) :
    s.access f k = k (s.resolve f) := by
  unfold State.Allows at h
  simp [State.access, h]

/-- A device that reads unimplemented addresses as 0 allows every operand. -/
theorem allows_of_readsZero {s : State} (f : FileField) (h : s.dev.unimplemented = .readsZero) : s.Allows f := by
  unfold State.Allows
  cases s.resolve f <;> simp [deviceAllows, h]

end Sys2Proof.Machine
end

