-- ==== Sys2Proof/Laws/Ops.lean ====
section
/-! SUPPORT. For each shared operation, once, everything it can do: the next states it answers (`_next`), and
where it answers one (`_allowed`). -/

namespace Sys2Proof.Machine

/-! ### Results delivered to a destination -/

/-- The state after `v` was written to `d` and the flags of `u` set delivers both, and moves the pc on but
where PCL is written. -/
theorem delivered (s : State) (f : FileField) (d : Dest) (v : Byte) (u : FlagUpdate) :
    Delivered s ((s.advance.writeDest (s.resolve f) d v).withFlags u) f d v u.c u.dc u.z ∧
      (writtenReg (s.resolve f) d ≠ .pcl →
        ((s.advance.writeDest (s.resolve f) d v).withFlags u).pc = s.npc) := by
  cases d with
  | w =>
    have status : StatusIs (u.apply s.status) s.status u.c u.dc u.z := apply_statusIs u s.status
    exact ⟨⟨rfl, nofun, status,
      { tmr0 := fun _ => rfl, psc := rfl, bankBits := fun _ => status.bankBits, fsr := fun _ => rfl,
        pclath := fun _ => rfl, intcon := fun _ => rfl, optionReg := fun _ => rfl,
        latch := fun p _ => by cases p <;> rfl, tris := fun p _ => by cases p <;> rfl,
        level := fun p => by cases p <;> rfl, load := fun p => by cases p <;> rfl,
        analog := fun p => by cases p <;> rfl, ram := fun _ _ => rfl },
      by constructor <;> rfl⟩, fun _ => rfl⟩
  | file =>
    have files := writeReg_files s.advance (s.resolve f) v
    have rest := writeReg_rest s.advance (s.resolve f) v
    have latch := files.latch
    have tris := files.tris
    have level := files.level
    have load := files.load
    have analog := files.analog
    have e : ∀ (t : State) (p : PortId), (t.withFlags u).port p = t.port p := by intro t p; cases p <;> rfl
    have ea : ∀ p : PortId, s.advance.port p = s.port p := by intro p; cases p <;> rfl
    refine ⟨⟨?_, fun _ => holds_withFlags u (writeReg_holds s.advance _ v), ?_, ?_, ?_⟩, ?_⟩
    · simp [State.writeDest]
    · have h := apply_statusIs u (s.advance.writeReg (s.resolve f) v).status
      have data : (s.advance.writeReg (s.resolve f) v).status = s.statusData (s.resolve f) v :=
        writeReg_status s.advance (s.resolve f) v
      rw [data] at h
      simpa [State.writeDest, writtenReg, data] using h
    · exact
        { tmr0 := files.tmr0, psc := files.psc,
          bankBits := fun h => (apply_statusIs u _).bankBits.trans (files.bankBits h), fsr := files.fsr,
          pclath := files.pclath, intcon := files.intcon, optionReg := files.optionReg,
          latch := fun p h => by rw [State.writeDest, e, latch p h, ea],
          tris := fun p h => by rw [State.writeDest, e, tris p h, ea],
          level := fun p => by rw [State.writeDest, e, level p, ea],
          load := fun p => by rw [State.writeDest, e, load p, ea],
          analog := fun p => by rw [State.writeDest, e, analog p, ea],
          ram := files.ram }
    · exact ⟨rest.tos, rest.below, rest.held, rest.program, rest.wdt, rest.asleep, rest.inputs, rest.dev,
        rest.draws⟩
    · intro h
      exact writeReg_pc_of_ne s.advance _ v (by simpa [writtenReg] using h)

/-- A state whose flags none is set: `delivered` without flags. -/
theorem delivered_plain (s : State) (f : FileField) (d : Dest) (v : Byte) :
    Delivered s (s.advance.writeDest (s.resolve f) d v) f d v none none none ∧
      (writtenReg (s.resolve f) d ≠ .pcl → (s.advance.writeDest (s.resolve f) d v).pc = s.npc) :=
  delivered s f d v .unaffected

/-- Skipping changes the pc and nothing else. -/
theorem Delivered.skip {s t : State} {f : FileField} {d : Dest} {v : Byte} {c dc z : Option Bool}
    (h : Delivered s t f d v c dc z) (hp : writtenReg (s.resolve f) d ≠ .pcl) :
    Delivered s t.skip f d v c dc z where
  toW := h.toW
  toFile := by
    rintro rfl
    have hh := h.toFile rfl
    revert hh
    cases hr : s.resolve f <;> simp_all [State.Holds, writtenReg] <;>
      exact fun h => h
  status := h.status
  files :=
    { tmr0 := h.files.tmr0, psc := h.files.psc, bankBits := h.files.bankBits, fsr := h.files.fsr, pclath := h.files.pclath,
      intcon := h.files.intcon, optionReg := h.files.optionReg,
      latch := fun p hp => by rw [← h.files.latch p hp]; cases p <;> rfl,
      tris := fun p hp => by rw [← h.files.tris p hp]; cases p <;> rfl,
      level := fun p => by rw [← h.files.level p]; cases p <;> rfl,
      load := fun p => by rw [← h.files.load p]; cases p <;> rfl,
      analog := fun p => by rw [← h.files.analog p]; cases p <;> rfl,
      ram := h.files.ram }
  rest := ⟨h.rest.tos, h.rest.below, h.rest.held, h.rest.program, h.rest.wdt, h.rest.asleep,
    h.rest.inputs, h.rest.dev, h.rest.draws⟩

/-! ### The shapes of the file register instructions -/

theorem fileOp_next {s t : State} {f : FileField} {d : Dest} {op : Byte → Alu} (h : s.fileOp f d op = .next t) :
    s.Allows f ∧
      t = (s.advance.writeDest (s.resolve f) d (op (s.operand f)).value).withFlags (op (s.operand f)).flags := by
  obtain ⟨ha, hk⟩ := access_next h
  exact ⟨ha, by injection hk with hk; exact hk.symm⟩

theorem fileOp_allowed {s : State} {f : FileField} (d : Dest) (op : Byte → Alu) (h : s.Allows f) :
    s.fileOp f d op =
      .next ((s.advance.writeDest (s.resolve f) d (op (s.operand f)).value).withFlags (op (s.operand f)).flags) :=
  access_allowed _ h

theorem fileStore_next {s t : State} {f : FileField} {out : Alu} (h : s.fileStore f out = .next t) :
    s.Allows f ∧ t = (s.advance.writeReg (s.resolve f) out.value).withFlags out.flags := by
  obtain ⟨ha, hk⟩ := access_next h
  exact ⟨ha, by injection hk with hk; exact hk.symm⟩

theorem fileStore_allowed {s : State} {f : FileField} (out : Alu) (h : s.Allows f) :
    s.fileStore f out = .next ((s.advance.writeReg (s.resolve f) out.value).withFlags out.flags) :=
  access_allowed _ h

theorem fileSkipOp_next {s t : State} {f : FileField} {d : Dest} {op : Byte → Byte}
    (h : s.fileSkipOp f d op = .next t) :
    s.Allows f ∧
      ((op (s.operand f) ≠ 0x00 ∧ t = s.advance.writeDest (s.resolve f) d (op (s.operand f))) ∨
        (op (s.operand f) = 0x00 ∧ writtenReg (s.resolve f) d ≠ .pcl ∧
          t = (s.advance.writeDest (s.resolve f) d (op (s.operand f))).skip)) := by
  obtain ⟨ha, hk⟩ := access_next h
  refine ⟨ha, ?_⟩
  change (if op (s.operand f) ≠ 0x00 then _ else _) = _ at hk
  split at hk
  · next hv => injection hk with hk; exact .inl ⟨hv, hk.symm⟩
  · next hv =>
    split at hk
    · cases hk
    · next hne =>
      injection hk with hk
      refine .inr ⟨by simpa using hv, ?_, hk.symm⟩
      unfold writtenReg
      split
      · next hd => exact fun hr => hne ⟨hd, hr⟩
      · exact nofun

theorem fileSkipOp_goes_on {s : State} {f : FileField} {d : Dest} {op : Byte → Byte} (h : s.Allows f)
    (hv : op (s.operand f) ≠ 0x00) :
    s.fileSkipOp f d op = .next (s.advance.writeDest (s.resolve f) d (op (s.operand f))) := by
  refine (access_allowed _ h).trans ?_
  change (if op (s.operand f) ≠ 0x00 then _ else _) = _
  rw [if_pos hv]
  rfl

theorem fileSkipOp_skips {s : State} {f : FileField} {d : Dest} {op : Byte → Byte} (h : s.Allows f)
    (hv : op (s.operand f) = 0x00) (hp : writtenReg (s.resolve f) d ≠ .pcl) :
    s.fileSkipOp f d op = .next (s.advance.writeDest (s.resolve f) d (op (s.operand f))).skip := by
  refine (access_allowed _ h).trans ?_
  change (if op (s.operand f) ≠ 0x00 then _ else _) = _
  rw [if_neg (by simpa using hv), if_neg (fun hc => hp (by simp [writtenReg, hc.1, hc.2]))]
  rfl

theorem bitOp_next {s t : State} {f : FileField} {b : BitField} {value : Bool} (h : s.bitOp f b value = .next t) :
    s.Allows f ∧ t = s.advance.writeReg (s.resolve f) (setBit (s.operand f) b.toNat value) := by
  obtain ⟨ha, hk⟩ := access_next h
  exact ⟨ha, by injection hk with hk; exact hk.symm⟩

theorem bitOp_allowed {s : State} {f : FileField} (b : BitField) (value : Bool) (h : s.Allows f) :
    s.bitOp f b value = .next (s.advance.writeReg (s.resolve f) (setBit (s.operand f) b.toNat value)) :=
  access_allowed _ h

theorem bitTest_next {s t : State} {f : FileField} {b : BitField} {skipWhen : Bool}
    (h : s.bitTest f b skipWhen = .next t) :
    s.Allows f ∧ t = if (s.operand f).getLsbD b.toNat = skipWhen then s.advance.skip else s.advance := by
  obtain ⟨ha, hk⟩ := access_next h
  injection hk with hk
  exact ⟨ha, hk.symm⟩

theorem bitTest_allowed {s : State} {f : FileField} (b : BitField) (skipWhen : Bool) (h : s.Allows f) :
    s.bitTest f b skipWhen =
      .next (if (s.operand f).getLsbD b.toNat = skipWhen then s.advance.skip else s.advance) :=
  access_allowed _ h

/-- A literal instruction loads W, sets the flags, and changes nothing else. -/
theorem loaded (s : State) (out : Alu) :
    Loaded s ({ s.advance with w := out.value }.withFlags out.flags) out.value out.flags.c out.flags.dc
      out.flags.z where
  toW := rfl
  pc := rfl
  status := apply_statusIs out.flags s.status
  files :=
    { tmr0 := fun _ => rfl, psc := rfl, bankBits := fun _ => (apply_statusIs out.flags s.status).bankBits,
      fsr := fun _ => rfl, pclath := fun _ => rfl, intcon := fun _ => rfl, optionReg := fun _ => rfl,
      latch := fun p _ => by cases p <;> rfl, tris := fun p _ => by cases p <;> rfl,
      level := fun p => by cases p <;> rfl, load := fun p => by cases p <;> rfl,
      analog := fun p => by cases p <;> rfl, ram := fun _ _ => rfl }
  rest := by constructor <;> rfl

/-! ### The stack -/

theorem push_next {s t : State} {v : ProgAddr} {k : State → Result} (h : s.push v k = .next t) :
    s.pushStops = false ∧ k (s.pushed v) = .next t := by
  unfold State.push at h
  split at h
  · cases h
  · next hs => exact ⟨by simpa using hs, h⟩

theorem push_room {s : State} (v : ProgAddr) (k : State → Result) (h : s.pushStops = false) :
    s.push v k = k (s.pushed v) := by simp [State.push, h]

theorem push_full {s : State} (v : ProgAddr) (k : State → Result) (h : s.pushStops = true) :
    s.push v k = .fault .stackOverflow := by simp [State.push, h]

theorem pop_next {s t : State} {k : ProgAddr → State → Result} (h : s.pop k = .next t) :
    s.popStops = false ∧ k s.tos s.popped = .next t := by
  unfold State.pop at h
  split at h
  · cases h
  · next hs => exact ⟨by simpa using hs, h⟩

theorem pop_held {s : State} (k : ProgAddr → State → Result) (h : s.popStops = false) :
    s.pop k = k s.tos s.popped := by simp [State.pop, h]

theorem pop_empty {s : State} (k : ProgAddr → State → Result) (h : s.popStops = true) :
    s.pop k = .fault .stackUnderflow := by simp [State.pop, h]

end Sys2Proof.Machine
end

