-- ==== Sys2Proof/Laws/Stack.lean ====
section
/-! SUPPORT. The return stack seen from its top (R29): that it is the circular buffer with a pointer of D4, and what
`CALL`, the returns and interrupt entry do where the stack lets them. -/

namespace Sys2Proof.Machine

/-! ### The circular buffer of D4 -/

/-- The slots of a circular buffer from its top down, where `ptr` is the slot the next push writes: those below the
pointer, then those from the last one down to it. -/
def circleFromTop (slots : List ProgAddr) (ptr : Nat) : List ProgAddr :=
  (slots.take ptr).reverse ++ (slots.drop ptr).reverse

/-- Turning the circle: what stood last now stands first. -/
theorem circleFromTop_turn {slots : List ProgAddr} {ptr : Nat} (h : ptr < slots.length) :
    circleFromTop slots ((ptr + 1) % slots.length) =
      slots[ptr] :: (circleFromTop slots ptr).take (slots.length - 1) := by
  have hd : slots.drop ptr = slots[ptr] :: slots.drop (ptr + 1) := List.drop_eq_getElem_cons h
  have ht : slots.take (ptr + 1) = slots.take ptr ++ [slots[ptr]] := by simp
  have e : (circleFromTop slots ptr).take (slots.length - 1) =
      (slots.take ptr).reverse ++ (slots.drop (ptr + 1)).reverse := by
    unfold circleFromTop
    rw [hd, List.reverse_cons, ← List.append_assoc]
    exact List.take_left' (by simp; omega)
  rw [e]
  by_cases hl : ptr + 1 = slots.length
  · rw [hl, Nat.mod_self]
    have hs : slots = slots.take ptr ++ [slots[ptr]] := by
      rw [← ht, hl, List.take_length]
    unfold circleFromTop
    have hr : slots.reverse = slots[ptr] :: (slots.take ptr).reverse := by
      conv => lhs; rw [hs]
      rw [List.reverse_append]
      rfl
    simp [hr]
  · rw [Nat.mod_eq_of_lt (by omega)]
    unfold circleFromTop
    rw [ht, List.reverse_append]
    rfl

/-- A push of the buffer, which writes its slot and moves the pointer on, is `State.pushed` seen from the top. -/
theorem circleFromTop_push {slots : List ProgAddr} {ptr : Nat} (v : ProgAddr) (h : ptr < slots.length) :
    circleFromTop (slots.set ptr v) ((ptr + 1) % slots.length) =
      v :: (circleFromTop slots ptr).take (slots.length - 1) := by
  have ht := circleFromTop_turn (slots := slots.set ptr v) (ptr := ptr) (by simpa using h)
  have e : (circleFromTop (slots.set ptr v) ptr).take (slots.length - 1) =
      (circleFromTop slots ptr).take (slots.length - 1) := by
    unfold circleFromTop
    rw [List.take_set_of_le (Nat.le_refl ptr)]
    have hd : (slots.set ptr v).drop ptr = v :: slots.drop (ptr + 1) := by
      rw [List.drop_eq_getElem_cons (by simpa using h)]
      simp [List.drop_set]
    have hd' : slots.drop ptr = slots[ptr] :: slots.drop (ptr + 1) := List.drop_eq_getElem_cons h
    rw [hd, hd', List.reverse_cons, List.reverse_cons, ← List.append_assoc, ← List.append_assoc,
      List.take_left' (by simp; omega), List.take_left' (by simp; omega)]
  simpa [e] using ht

/-- A pop of the buffer, which moves the pointer back from `ptr + 1` to `ptr`, is `State.popped` seen from the top: the
top goes last. -/
theorem circleFromTop_pop {slots : List ProgAddr} {ptr : Nat} (h : ptr < slots.length) :
    circleFromTop slots ptr =
      (circleFromTop slots ((ptr + 1) % slots.length)).tail ++ [slots[ptr]] ∧
    (circleFromTop slots ((ptr + 1) % slots.length)).head? = some slots[ptr] := by
  rw [circleFromTop_turn h]
  refine ⟨?_, rfl⟩
  have hl : (circleFromTop slots ptr).length = slots.length := by simp [circleFromTop]; omega
  have hd : slots.drop ptr = slots[ptr] :: slots.drop (ptr + 1) := List.drop_eq_getElem_cons h
  have e : circleFromTop slots ptr =
      ((slots.take ptr).reverse ++ (slots.drop (ptr + 1)).reverse) ++ [slots[ptr]] := by
    unfold circleFromTop; rw [hd]; simp
  rw [List.tail_cons, e, List.take_left' (by simp; omega)]

/-! ### Entries -/

@[simp] theorem stackEntry_zero (s : State) : s.stackEntry 0 = some s.tos := rfl

@[simp] theorem stackEntry_succ (s : State) (n : Nat) : s.stackEntry (n + 1) = s.below[n]? := rfl

/-- The slots from the top down after a push. -/
theorem pushed_slots (s : State) (v : ProgAddr) :
    (s.pushed v).tos :: (s.pushed v).below = v :: (s.tos :: s.below).take (s.dev.stackDepth - 1) := rfl

/-- The slots from the top down after a pop. -/
theorem popped_slots (s : State) : s.popped.tos :: s.popped.below = s.below ++ [s.tos] := by
  rw [popped_tos, popped_below]
  cases s.below <;> rfl

/-- A push puts its value above the former entries. -/
theorem pushed_entry (s : State) (v : ProgAddr) : PushedEntry s (s.pushed v) v where
  top := rfl
  held := rfl
  below := by
    intro n hn
    rw [stackEntry_succ, pushed_below, List.getElem?_take, if_pos (by omega)]
    rfl

/-- A pop makes the entry below TOS the new TOS. -/
theorem popped_entry (s : State) : PoppedEntry s s.popped where
  held := rfl
  entries := by
    intro n hn
    unfold State.stackEntry
    rw [popped_slots, List.getElem?_append_left hn, List.getElem?_cons_succ]
  stale := by
    unfold State.stackEntry
    rw [popped_slots]
    simp

/-- A push and a pop leave every entry where it was that the push did not drive out. -/
theorem popped_pushed_entry {s : State} {n : Nat} {x : ProgAddr} (v : ProgAddr) (hn : n + 1 < s.dev.stackDepth)
    (h : s.stackEntry n = some x) : (s.pushed v).popped.stackEntry n = some x := by
  have hb := (pushed_entry s v).below n hn
  rw [h] at hb
  have hl : n < (s.pushed v).below.length := by
    rw [stackEntry_succ] at hb
    exact (List.getElem?_eq_some_iff.1 hb).1
  rw [(popped_entry _).entries n hl, hb]

/-- After a push there is an entry to pop, if there was room for it. -/
theorem mayPop_pushed {s : State} (v : ProgAddr) (h : s.MayPush) : (s.pushed v).MayPop := by
  rcases h with h | h
  · exact .inl h
  · exact .inr (by rw [pushed_held]; omega)

theorem pushStops_of_mayPush {s : State} (h : s.MayPush) : s.pushStops = false := by
  unfold State.pushStops
  rcases h with h | h
  · simp [h]
  · simp; omega

theorem popStops_of_mayPop {s : State} (h : s.MayPop) : s.popStops = false := by
  unfold State.popStops
  rcases h with h | h
  · simp [h]
  · simp; omega

/-- `RETURN`, and `RETLW` after W is loaded. -/
theorem returnFromCall_mayPop {s : State} (h : s.MayPop) :
    s.returnFromCall = .next { s.popped with pc := s.tos } := by
  unfold State.returnFromCall
  rw [pop_held _ (popStops_of_mayPop h)]

/-- `RETFIE`. -/
theorem returnFromInterrupt_mayPop {s : State} (h : s.MayPop) :
    s.returnFromInterrupt = .next { s.popped.setGie true with pc := s.tos } := by
  unfold State.returnFromInterrupt
  rw [pop_held _ (popStops_of_mayPop h)]

/-- `CALL`. -/
theorem execCall_mayPush {s : State} (k : BitVec 11) (h : s.MayPush) :
    execCall k s = .next { s.pushed s.npc with pc := s.pageTarget k } := by
  unfold execCall
  rw [push_room _ _ (pushStops_of_mayPush h)]

/-- Interrupt entry. -/
theorem takeInterrupt_mayPush {s : State} (h : s.MayPush) :
    s.takeInterrupt = .next { (s.pushed s.pc).setGie false with pc := s.dev.intVector } := by
  unfold State.takeInterrupt
  rw [push_room _ _ (pushStops_of_mayPush h)]
  rfl

end Sys2Proof.Machine
end

