-- ==== Sys2Proof/Laws/Exec.lean ====
section
/-! SUPPORT. Each instruction as the shared operation it is, once, for rewriting; and what every instruction that stores
to a file register has in common. -/

namespace Sys2Proof.Machine

/-! ### One line per instruction -/

theorem exec_addwf (s : State) (f : FileField) (d : Dest) : exec (.addwf f d) s =
    s.fileOp f d (fun a => add8 s.w a) := rfl
theorem exec_andwf (s : State) (f : FileField) (d : Dest) : exec (.andwf f d) s =
    s.fileOp f d (fun a => and8 s.w a) := rfl
theorem exec_clrf (s : State) (f : FileField) : exec (.clrf f) s = s.fileStore f (resultZ 0x00) := rfl
theorem exec_clrw (s : State) : exec .clrw s = s.literalOp (resultZ 0x00) := rfl
theorem exec_comf (s : State) (f : FileField) (d : Dest) : exec (.comf f d) s = s.fileOp f d com8 := rfl
theorem exec_decf (s : State) (f : FileField) (d : Dest) : exec (.decf f d) s = s.fileOp f d dec8 := rfl
theorem exec_decfsz (s : State) (f : FileField) (d : Dest) : exec (.decfsz f d) s =
    s.fileSkipOp f d (fun a => a - 1) := rfl
theorem exec_incf (s : State) (f : FileField) (d : Dest) : exec (.incf f d) s = s.fileOp f d inc8 := rfl
theorem exec_incfsz (s : State) (f : FileField) (d : Dest) : exec (.incfsz f d) s =
    s.fileSkipOp f d (fun a => a + 1) := rfl
theorem exec_iorwf (s : State) (f : FileField) (d : Dest) : exec (.iorwf f d) s =
    s.fileOp f d (fun a => or8 s.w a) := rfl
theorem exec_movf (s : State) (f : FileField) (d : Dest) : exec (.movf f d) s = s.fileOp f d mov8 := rfl
theorem exec_movwf (s : State) (f : FileField) : exec (.movwf f) s = s.fileStore f (resultPlain s.w) := rfl
theorem exec_nop (s : State) : exec .nop s = .next s.advance := rfl
theorem exec_rlf (s : State) (f : FileField) (d : Dest) : exec (.rlf f d) s =
    s.fileOp f d (fun a => rotateLeft8 a s.flagC) := rfl
theorem exec_rrf (s : State) (f : FileField) (d : Dest) : exec (.rrf f d) s =
    s.fileOp f d (fun a => rotateRight8 a s.flagC) := rfl
theorem exec_subwf (s : State) (f : FileField) (d : Dest) : exec (.subwf f d) s =
    s.fileOp f d (fun a => sub8 a s.w) := rfl
theorem exec_swapf (s : State) (f : FileField) (d : Dest) : exec (.swapf f d) s = s.fileOp f d swap8 := rfl
theorem exec_xorwf (s : State) (f : FileField) (d : Dest) : exec (.xorwf f d) s =
    s.fileOp f d (fun a => xor8 s.w a) := rfl
theorem exec_bcf (s : State) (f : FileField) (b : BitField) : exec (.bcf f b) s = s.bitOp f b false := rfl
theorem exec_bsf (s : State) (f : FileField) (b : BitField) : exec (.bsf f b) s = s.bitOp f b true := rfl
theorem exec_btfsc (s : State) (f : FileField) (b : BitField) : exec (.btfsc f b) s = s.bitTest f b false := rfl
theorem exec_btfss (s : State) (f : FileField) (b : BitField) : exec (.btfss f b) s = s.bitTest f b true := rfl
theorem exec_addlw (s : State) (k : Byte) : exec (.addlw k) s = s.literalOp (add8 s.w k) := rfl
theorem exec_andlw (s : State) (k : Byte) : exec (.andlw k) s = s.literalOp (and8 s.w k) := rfl
theorem exec_call (s : State) (k : BitVec 11) : exec (.call k) s =
    s.push s.npc (fun t => .next { t with pc := s.pageTarget k }) := rfl
theorem exec_clrwdt (s : State) : exec .clrwdt s = .next (s.advance.clearWatchdog.setToPd true true) := rfl
theorem exec_goto (s : State) (k : BitVec 11) : exec (.goto k) s = .next { s with pc := s.pageTarget k } := rfl
theorem exec_iorlw (s : State) (k : Byte) : exec (.iorlw k) s = s.literalOp (or8 s.w k) := rfl
theorem exec_movlw (s : State) (k : Byte) : exec (.movlw k) s = s.literalOp (resultPlain k) := rfl
theorem exec_retfie (s : State) : exec .retfie s = s.returnFromInterrupt := rfl
theorem exec_retlw (s : State) (k : Byte) : exec (.retlw k) s = State.returnFromCall { s with w := k } := rfl
theorem exec_ret (s : State) : exec .ret s = s.returnFromCall := rfl
theorem exec_sleep (s : State) : exec .sleep s =
    .next { s.advance.clearWatchdog.setToPd true false with asleep := true } := rfl
theorem exec_sublw (s : State) (k : Byte) : exec (.sublw k) s = s.literalOp (sub8 k s.w) := rfl
theorem exec_xorlw (s : State) (k : Byte) : exec (.xorlw k) s = s.literalOp (xor8 s.w k) := rfl
theorem exec_option (s : State) : exec .option s = execOption s := rfl
theorem exec_tris (s : State) (p : BitVec 3) : exec (.tris p) s = execTris p s := rfl
theorem exec_reserved (s : State) (word : InstrWord) : exec (.reserved word) s =
    .refused (.reservedOpcode word) := rfl

/-! ### Timing -/

/-- An instruction takes one cycle or two (R239). -/
theorem cycles_one_or_two (i : Instr) (s : State) : cycles i s = 1 ∨ cycles i s = 2 := by
  cases i <;>
    simp only [cycles, State.fileOpCycles, State.fileSkipCycles, State.bitTestCycles, true_or, or_true] <;>
    repeat' split
  all_goals first | exact .inl rfl | exact .inr rfl

/-- An instruction's page from its three parts. -/
theorem page_of {s : State} {i : Instr} {word : InstrWord} {n : Nat} {q : Vector QActivity 4} (he : encode i = word)
    (hc : cycles i s = n) (hq : qCycles i = some q) : Page s i word n q := by
  refine ⟨he, hc, ?_⟩
  unfold qActivity
  rw [hq]
  rcases cycles_one_or_two i s with h | h <;> rw [h] at hc ⊢ <;> subst hc <;> rfl

/-! ### Everything an instruction can do -/

/-- What `exec i s` can have done when it answers `t`. -/
inductive Effect (i : Instr) (s t : State) : Prop
  /-- A result went to W or to the file register, and flags were set. -/
  | file (f : FileField) (d : Dest) (v : Byte) (u : FlagUpdate)
      (hs : storesTo i = if d = .file then some f else none)
      (h : t = (s.advance.writeDest (s.resolve f) d v).withFlags u)
  /-- The same without flags, and the next word was skipped. -/
  | skip (f : FileField) (d : Dest) (v : Byte) (hs : storesTo i = if d = .file then some f else none)
      (hp : writtenReg (s.resolve f) d ≠ .pcl) (h : t = (s.advance.writeDest (s.resolve f) d v).skip)
  /-- A literal instruction loaded W. -/
  | load (out : Alu) (hs : storesTo i = none) (h : t = { s.advance with w := out.value }.withFlags out.flags)
  /-- Only the pc changed. -/
  | pc (v : ProgAddr) (hs : storesTo i = none) (h : t = { s with pc := v })
  | call (k : BitVec 11) (hi : i = .call k) (h : t = { s.pushed s.npc with pc := s.pageTarget k })
  | ret (k : Byte) (hi : i = .ret ∨ ∃ k, i = .retlw k) (h : t = { s.popped with w := k, pc := s.tos })
  | retfie (hi : i = .retfie) (h : t = { s.popped.setGie true with pc := s.tos })
  | clrwdt (hi : i = .clrwdt) (h : t = s.advance.clearWatchdog.setToPd true true)
  | sleep (hi : i = .sleep) (h : t = { s.advance.clearWatchdog.setToPd true false with asleep := true })
  | option (hi : i = .option) (h : t = s.advance.writeReg .optionReg s.w)
  | tris (p : BitVec 3) (q : PortId) (hi : i = .tris p) (hq : trisPort p = some q) (h : t = s.advance.writeReg (.tris q) s.w)

section
variable {i : Instr} {s t : State}

theorem effect_fileOp {f : FileField} {d : Dest} {op : Byte → Alu}
    (hs : storesTo i = if d = .file then some f else none) (h : s.fileOp f d op = .next t) : Effect i s t :=
  .file f d _ _ hs (fileOp_next h).2

theorem effect_fileSkipOp {f : FileField} {d : Dest} {op : Byte → Byte}
    (hs : storesTo i = if d = .file then some f else none) (h : s.fileSkipOp f d op = .next t) : Effect i s t := by
  rcases (fileSkipOp_next h).2 with ⟨_, h⟩ | ⟨_, hp, h⟩
  · exact .file f d _ .unaffected hs h
  · exact .skip f d _ hs hp h

theorem effect_fileStore {f : FileField} {out : Alu} (hs : storesTo i = some f) (h : s.fileStore f out = .next t) :
    Effect i s t := .file f .file _ _ hs (fileStore_next h).2

theorem effect_bitOp {f : FileField} {b : BitField} {value : Bool} (hs : storesTo i = some f)
    (h : s.bitOp f b value = .next t) : Effect i s t := .file f .file _ .unaffected hs (bitOp_next h).2

theorem effect_bitTest {f : FileField} {b : BitField} {skipWhen : Bool} (hs : storesTo i = none)
    (h : s.bitTest f b skipWhen = .next t) : Effect i s t := by
  have h := (bitTest_next h).2
  split at h <;> exact .pc _ hs h

theorem effect_literalOp {out : Alu} (hs : storesTo i = none) (h : s.literalOp out = .next t) : Effect i s t := by
  injection h with h
  exact .load out hs h.symm

theorem effect_returnFromCall (k : Byte) (hi : i = .ret ∨ ∃ k, i = .retlw k)
    (h : State.returnFromCall { s with w := k } = .next t) : Effect i s t := by
  unfold State.returnFromCall at h
  have h := (pop_next h).2
  injection h with h
  exact .ret k hi h.symm

/-- Every instruction that answers a next state has one of the effects. -/
theorem exec_effect (h : exec i s = .next t) : Effect i s t := by
  cases i with
  | addwf f d => rw [exec_addwf] at h; exact effect_fileOp rfl h
  | andwf f d => rw [exec_andwf] at h; exact effect_fileOp rfl h
  | comf f d => rw [exec_comf] at h; exact effect_fileOp rfl h
  | decf f d => rw [exec_decf] at h; exact effect_fileOp rfl h
  | incf f d => rw [exec_incf] at h; exact effect_fileOp rfl h
  | iorwf f d => rw [exec_iorwf] at h; exact effect_fileOp rfl h
  | movf f d => rw [exec_movf] at h; exact effect_fileOp rfl h
  | rlf f d => rw [exec_rlf] at h; exact effect_fileOp rfl h
  | rrf f d => rw [exec_rrf] at h; exact effect_fileOp rfl h
  | subwf f d => rw [exec_subwf] at h; exact effect_fileOp rfl h
  | swapf f d => rw [exec_swapf] at h; exact effect_fileOp rfl h
  | xorwf f d => rw [exec_xorwf] at h; exact effect_fileOp rfl h
  | decfsz f d => rw [exec_decfsz] at h; exact effect_fileSkipOp rfl h
  | incfsz f d => rw [exec_incfsz] at h; exact effect_fileSkipOp rfl h
  | clrf f => rw [exec_clrf] at h; exact effect_fileStore rfl h
  | movwf f => rw [exec_movwf] at h; exact effect_fileStore rfl h
  | bcf f b => rw [exec_bcf] at h; exact effect_bitOp rfl h
  | bsf f b => rw [exec_bsf] at h; exact effect_bitOp rfl h
  | btfsc f b => rw [exec_btfsc] at h; exact effect_bitTest rfl h
  | btfss f b => rw [exec_btfss] at h; exact effect_bitTest rfl h
  | clrw => rw [exec_clrw] at h; exact effect_literalOp rfl h
  | addlw k => rw [exec_addlw] at h; exact effect_literalOp rfl h
  | andlw k => rw [exec_andlw] at h; exact effect_literalOp rfl h
  | iorlw k => rw [exec_iorlw] at h; exact effect_literalOp rfl h
  | movlw k => rw [exec_movlw] at h; exact effect_literalOp rfl h
  | sublw k => rw [exec_sublw] at h; exact effect_literalOp rfl h
  | xorlw k => rw [exec_xorlw] at h; exact effect_literalOp rfl h
  | nop => cases h; exact .pc s.npc rfl rfl
  | goto k => cases h; exact .pc (s.pageTarget k) rfl rfl
  | call k =>
    rw [exec_call] at h
    have h := (push_next h).2
    injection h with h
    exact .call k rfl h.symm
  | ret => rw [exec_ret] at h; exact effect_returnFromCall s.w (.inl rfl) h
  | retlw k => rw [exec_retlw] at h; exact effect_returnFromCall k (.inr ⟨k, rfl⟩) h
  | retfie =>
    rw [exec_retfie] at h
    unfold State.returnFromInterrupt at h
    have h := (pop_next h).2
    injection h with h
    exact .retfie rfl h.symm
  | option =>
    rw [exec_option] at h
    unfold execOption at h
    split at h
    · injection h with h; exact .option rfl h.symm
    · cases h
  | tris f =>
    rw [exec_tris] at h
    unfold execTris at h
    split at h
    · cases h
    · next q hq =>
      split at h
      · injection h with h; exact .tris f q rfl hq h.symm
      · cases h
  | clrwdt => cases h; exact .clrwdt rfl rfl
  | sleep => cases h; exact .sleep rfl rfl
  | reserved w => cases h

end

end Sys2Proof.Machine
end

