-- ==== Sys2Proof/Laws/PerInstr.lean ====
section
/-! SUPPORT. A fact about every instruction as syntax: its encoding lies in its row of the opcode table
(30_encoding.md rule R104). One lemma per constructor of `Instr`. -/

namespace Sys2Proof.Laws

/-! ### The opcode field of each format (R101) -/

/-- Masking works field by field. -/
theorem append_and_append {m n : Nat} (x y : BitVec m) (a b : BitVec n) :
    (x ++ a) &&& (y ++ b) = (x &&& y) ++ (a &&& b) := by
  apply BitVec.eq_of_getLsbD_eq
  intro i _
  simp only [BitVec.getLsbD_and, BitVec.getLsbD_append]
  split <;> rfl

/-- A word under the mask of its opcode field `op`, the operand bits masked out. -/
theorem append_and_mask {m n : Nat} (op mask : BitVec m) (rest : BitVec n) :
    (op ++ rest) &&& (mask ++ 0#n) = (op &&& mask) ++ 0#n := by
  rw [append_and_append, BitVec.and_zero]

theorem encodeByte_opcode (op : BitVec 6) (d : Dest) (f : FileField) :
    encodeByte op d f &&& 0x3F00 = ((op &&& 0x3F) ++ 0#1 ++ 0#7 : BitVec 14) := by
  have h := append_and_mask (op ++ encodeD d) (0x3F#6 ++ 0#1) f
  rw [append_and_mask op] at h
  exact h

theorem encodeByte1_opcode (op : BitVec 7) (f : FileField) :
    encodeByte1 op f &&& 0x3F80 = ((op &&& 0x7F) ++ 0#7 : BitVec 14) := append_and_mask op 0x7F#7 f

theorem encodeBit_opcode (op : BitVec 4) (b : BitField) (f : FileField) :
    encodeBit op b f &&& 0x3C00 = ((op &&& 0xF) ++ 0#3 ++ 0#7 : BitVec 14) := by
  have h := append_and_mask (op ++ b) (0xF#4 ++ 0#3) f
  rw [append_and_mask op] at h
  exact h

/-- A literal instruction under a mask that takes no bit of the literal. -/
theorem encodeLit8_opcode (op mask : BitVec 6) (k : Byte) :
    encodeLit8 op k &&& (mask ++ 0#8) = ((op &&& mask) ++ 0#8 : BitVec 14) := append_and_mask op mask k

theorem encodeLit11_opcode (op : BitVec 3) (k : BitVec 11) :
    encodeLit11 op k &&& 0x3800 = ((op &&& 0x7) ++ 0#11 : BitVec 14) := append_and_mask op 0x7#3 k

end Sys2Proof.Laws

namespace Sys2Proof.Laws.EncodeInRow

/-- The word of an instruction matches the row of rule R104 that names it. -/
def Statement (i : Instr) : Prop := encode i &&& (opcodeRow i).mask = (opcodeRow i).pattern

theorem addwf (f : FileField) (d : Dest) : Statement (.addwf f d) := encodeByte_opcode _ d f
theorem andwf (f : FileField) (d : Dest) : Statement (.andwf f d) := encodeByte_opcode _ d f
theorem clrf (f : FileField) : Statement (.clrf f) := encodeByte1_opcode _ f
theorem clrw : Statement .clrw := rfl
theorem comf (f : FileField) (d : Dest) : Statement (.comf f d) := encodeByte_opcode _ d f
theorem decf (f : FileField) (d : Dest) : Statement (.decf f d) := encodeByte_opcode _ d f
theorem decfsz (f : FileField) (d : Dest) : Statement (.decfsz f d) := encodeByte_opcode _ d f
theorem incf (f : FileField) (d : Dest) : Statement (.incf f d) := encodeByte_opcode _ d f
theorem incfsz (f : FileField) (d : Dest) : Statement (.incfsz f d) := encodeByte_opcode _ d f
theorem iorwf (f : FileField) (d : Dest) : Statement (.iorwf f d) := encodeByte_opcode _ d f
theorem movf (f : FileField) (d : Dest) : Statement (.movf f d) := encodeByte_opcode _ d f
theorem movwf (f : FileField) : Statement (.movwf f) := encodeByte1_opcode _ f
theorem nop : Statement .nop := rfl
theorem rlf (f : FileField) (d : Dest) : Statement (.rlf f d) := encodeByte_opcode _ d f
theorem rrf (f : FileField) (d : Dest) : Statement (.rrf f d) := encodeByte_opcode _ d f
theorem subwf (f : FileField) (d : Dest) : Statement (.subwf f d) := encodeByte_opcode _ d f
theorem swapf (f : FileField) (d : Dest) : Statement (.swapf f d) := encodeByte_opcode _ d f
theorem xorwf (f : FileField) (d : Dest) : Statement (.xorwf f d) := encodeByte_opcode _ d f
theorem bcf (f : FileField) (b : BitField) : Statement (.bcf f b) := encodeBit_opcode _ b f
theorem bsf (f : FileField) (b : BitField) : Statement (.bsf f b) := encodeBit_opcode _ b f
theorem btfsc (f : FileField) (b : BitField) : Statement (.btfsc f b) := encodeBit_opcode _ b f
theorem btfss (f : FileField) (b : BitField) : Statement (.btfss f b) := encodeBit_opcode _ b f
theorem addlw (k : Byte) : Statement (.addlw k) := encodeLit8_opcode _ 0b111110#6 k
theorem andlw (k : Byte) : Statement (.andlw k) := encodeLit8_opcode _ 0b111111#6 k
theorem call (k : BitVec 11) : Statement (.call k) := encodeLit11_opcode _ k
theorem clrwdt : Statement .clrwdt := rfl
theorem goto (k : BitVec 11) : Statement (.goto k) := encodeLit11_opcode _ k
theorem iorlw (k : Byte) : Statement (.iorlw k) := encodeLit8_opcode _ 0b111111#6 k
theorem movlw (k : Byte) : Statement (.movlw k) := encodeLit8_opcode _ 0b111100#6 k
theorem retfie : Statement .retfie := rfl
theorem retlw (k : Byte) : Statement (.retlw k) := encodeLit8_opcode _ 0b111100#6 k
theorem ret : Statement .ret := rfl
theorem sleep : Statement .sleep := rfl
theorem sublw (k : Byte) : Statement (.sublw k) := encodeLit8_opcode _ 0b111110#6 k
theorem xorlw (k : Byte) : Statement (.xorlw k) := encodeLit8_opcode _ 0b111111#6 k
theorem option : Statement .option := rfl
theorem tris (f : BitVec 3) : Statement (.tris f) := by revert f; unfold Statement; decide
theorem reserved (w : InstrWord) : Statement (.reserved w) := BitVec.and_allOnes

end Sys2Proof.Laws.EncodeInRow
end

