-- ==== Sys2Proof/Laws/Step.lean ====
section
/-! SUPPORT. What the boundary and the step can do, said once. -/

namespace Sys2Proof.Machine

/-! ### Device updates -/

/-- A device update changes no field but the pins, TMR0, INTCON, the WDT counter and the prescaler count. -/
theorem applyEvent_keeps (s : State) (e : DeviceEvent) :
    (s.applyEvent e).w = s.w ∧ (s.applyEvent e).pc = s.pc ∧ (s.applyEvent e).pclath = s.pclath ∧
      (s.applyEvent e).tos = s.tos ∧ (s.applyEvent e).below = s.below ∧
      (s.applyEvent e).held = s.held ∧ (s.applyEvent e).status = s.status ∧ (s.applyEvent e).fsr = s.fsr ∧
      (s.applyEvent e).optionReg = s.optionReg ∧ (s.applyEvent e).ram = s.ram ∧
      (s.applyEvent e).program = s.program ∧ (s.applyEvent e).asleep = s.asleep ∧
      (s.applyEvent e).inputs = s.inputs ∧ (s.applyEvent e).dev = s.dev ∧ (s.applyEvent e).draws = s.draws := by
  cases e <;> simp [State.applyEvent]

/-- So do the updates of a whole boundary. -/
theorem applyEvents_keeps (events : List DeviceEvent) (s : State) :
    (s.applyEvents events).w = s.w ∧ (s.applyEvents events).pc = s.pc ∧
      (s.applyEvents events).pclath = s.pclath ∧ (s.applyEvents events).tos = s.tos ∧
      (s.applyEvents events).below = s.below ∧ (s.applyEvents events).held = s.held ∧
      (s.applyEvents events).status = s.status ∧ (s.applyEvents events).fsr = s.fsr ∧
      (s.applyEvents events).optionReg = s.optionReg ∧ (s.applyEvents events).ram = s.ram ∧
      (s.applyEvents events).program = s.program ∧ (s.applyEvents events).asleep = s.asleep ∧
      (s.applyEvents events).inputs = s.inputs ∧ (s.applyEvents events).dev = s.dev ∧
      (s.applyEvents events).draws = s.draws := by
  induction events generalizing s with
  | nil => simp [State.applyEvents]
  | cons e rest ih =>
    have hr := ih (s.applyEvent e)
    have he := applyEvent_keeps s e
    simp only [State.applyEvents, List.foldl_cons] at hr ⊢
    simp_all

/-! ### The boundary -/

/-- Taking a boundary's updates consumes the boundary and changes no field but those a device updates. -/
theorem afterUpdates_keeps (s : State) :
    s.afterUpdates.w = s.w ∧ s.afterUpdates.pc = s.pc ∧ s.afterUpdates.pclath = s.pclath ∧
      s.afterUpdates.tos = s.tos ∧ s.afterUpdates.below = s.below ∧ s.afterUpdates.held = s.held ∧
      s.afterUpdates.status = s.status ∧ s.afterUpdates.fsr = s.fsr ∧
      s.afterUpdates.optionReg = s.optionReg ∧ s.afterUpdates.ram = s.ram ∧
      s.afterUpdates.program = s.program ∧ s.afterUpdates.asleep = s.asleep ∧
      s.afterUpdates.inputs = s.inputs.tail ∧ s.afterUpdates.dev = s.dev ∧ s.afterUpdates.draws = s.draws :=
  applyEvents_keeps s.nextBoundary.events { s with inputs := s.inputs.tail }

/-- No device update changes what is fetched. -/
@[simp] theorem afterUpdates_fetch (s : State) : s.afterUpdates.fetch = s.fetch := by
  obtain ⟨-, hpc, -, -, -, -, -, -, -, -, hprogram, -, -, hdev, -⟩ := afterUpdates_keeps s
  unfold State.fetch
  rw [hpc, hprogram, hdev]

/-- Where nothing comes, the next boundary brings nothing but device updates. -/
theorem nextBoundary_of_nothingComes {s : State} (h : s.NothingComes) :
    s.nextBoundary.irq = false ∧ s.nextBoundary.wdt = false ∧ s.nextBoundary.mclr = false := by
  unfold State.nextBoundary
  unfold State.NothingComes at h
  cases hi : s.inputs with
  | nil => exact ⟨rfl, rfl, rfl⟩
  | cons b rest => exact h b (by simp [hi])

/-- Where nothing comes, nothing comes after the next boundary either. -/
theorem nothingComes_afterUpdates {s : State} (h : s.NothingComes) : s.afterUpdates.NothingComes := by
  obtain ⟨-, -, -, -, -, -, -, -, -, -, -, -, hinputs, -⟩ := afterUpdates_keeps s
  unfold State.NothingComes
  rw [hinputs]
  exact fun b hb => h b (List.mem_of_mem_tail hb)

/-- A quiet boundary lets the instruction run in the state with the boundary taken. -/
theorem boundary_quiet {s : State} (h : s.Quiet) : s.boundary = .runs s.afterQuiet := by
  obtain ⟨hb, ha⟩ := h
  have hu : s.afterUpdates = s.afterQuiet := by simp [State.afterUpdates, hb, Boundary.quiet, State.applyEvents,
    State.afterQuiet]
  simp [State.boundary, hb, hu, ha, Boundary.quiet, State.boundaryAwake]

/-- The step at a quiet boundary: the fetch, then the instruction. -/
theorem step_quiet {s : State} (h : s.Quiet) :
    step s = match s.fetch with
      | none => .fault (.noProgramWord s.pc)
      | some w => exec (decode w) s.afterQuiet := by
  unfold step
  rw [boundary_quiet h]
  rfl

/-- With no inputs left the boundary changes nothing. -/
theorem afterQuiet_of_no_inputs {s : State} (h : s.inputs = []) : s.afterQuiet = s := by
  cases s
  simp_all [State.afterQuiet]

/-- What a boundary leads to (R205, R206, R209, R211): everything the step can do but run the instruction of
the state it started in. -/
theorem boundary_cases (s : State) :
    (s.boundary = .decided (.next s.afterUpdates.mclrReset)) ∨
      (s.boundary = .runs s.afterUpdates.wokenByWatchdog ∧ s.asleep = true) ∨
      (s.boundary = .runs s.afterUpdates.awake ∧ s.asleep = true) ∨
      (s.boundary = .decided (.next s.afterUpdates) ∧ s.asleep = true) ∨
      (s.boundary = .decided (.next s.afterUpdates.watchdogReset) ∧ s.asleep = false) ∨
      (s.boundary = .decided s.afterUpdates.takeInterrupt ∧ s.asleep = false) ∨
      (s.boundary = .runs s.afterUpdates ∧ s.asleep = false) := by
  have ha : s.afterUpdates.asleep = s.asleep := (afterUpdates_keeps s).2.2.2.2.2.2.2.2.2.2.2.1
  unfold State.boundary
  split
  · exact .inl rfl
  · rw [ha]
    cases s.asleep
    · simp only [Bool.false_eq_true, ↓reduceIte, and_true, and_false, false_or, State.boundaryAwake]
      split
      · simp
      · split <;> simp
    · simp only [↓reduceIte, and_true, State.boundaryAsleep]
      split
      · simp
      · split <;> simp

/-- Everything a step can have done when it answers `t`: a reset, a wait, interrupt entry, or the instruction at the
pc in the state the boundary left. -/
theorem step_cases {s t : State} (h : step s = .next t) :
    (∃ a b, t = s.afterUpdates.warmReset a b) ∨ t = s.afterUpdates ∨ s.afterUpdates.takeInterrupt = .next t ∨
      ∃ u w, (u = s.afterUpdates.wokenByWatchdog ∨ u = s.afterUpdates.awake ∨ u = s.afterUpdates) ∧
        u.fetch = some w ∧ exec (decode w) u = .next t := by
  unfold step at h
  rcases boundary_cases s with hb | ⟨hb, -⟩ | ⟨hb, -⟩ | ⟨hb, -⟩ | ⟨hb, -⟩ | ⟨hb, -⟩ | ⟨hb, -⟩ <;>
    simp only [hb] at h
  · injection h with h
    subst h
    unfold State.mclrReset
    split
    · exact .inl ⟨_, _, rfl⟩
    · exact .inl ⟨_, _, rfl⟩
  · split at h
    · cases h
    · next w hw => exact .inr (.inr (.inr ⟨_, w, .inl rfl, hw, h⟩))
  · split at h
    · cases h
    · next w hw => exact .inr (.inr (.inr ⟨_, w, .inr (.inl rfl), hw, h⟩))
  · injection h with h
    exact .inr (.inl h.symm)
  · injection h with h
    exact .inl ⟨_, _, h.symm⟩
  · exact .inr (.inr (.inl h))
  · split at h
    · cases h
    · next w hw => exact .inr (.inr (.inr ⟨_, w, .inr (.inr rfl), hw, h⟩))

end Sys2Proof.Machine
end

