-- ==== Sys2Proof/Machine/Assembler.lean ====
section
/-! DEFINITION. What rules R111 to R114 say about writing instructions: the operand defaults and MPASM's
special mnemonics, each an abbreviation of one or two instructions. No step depends on it: the machine runs
words (log entry 31). -/

namespace Sys2Proof.Machine

/-- An omitted `d` means the file register (R113). -/
def omittedDest : Dest := .file

/-- The literal of a `CALL` or `GOTO` to a program address: its low 11 bits (R112, R184 (a)). -/
def targetLiteral (target : ProgAddr) : BitVec 11 := target.extractLsb' 0 11

/-- The assembler operator `HIGH`: bits 15:8 (R74, R112). -/
def highByte (v : BitVec 16) : Byte := v.extractLsb' 8 8

/-- STATUS, PCLATH and the bits the special mnemonics name (R114). -/
def statusField : FileField := BitVec.ofNat 7 Config.addrStatus
def pclathField : FileField := BitVec.ofNat 7 Config.addrPclath
def bitField (n : Nat) : BitField := BitVec.ofNat 3 n

/-- A flag the special mnemonics test, set and clear. -/
inductive SpecialFlag where
  | c
  | dc
  | z
deriving DecidableEq, Repr

def SpecialFlag.bit : SpecialFlag → BitField
  | .c => bitField Config.bitC
  | .dc => bitField Config.bitDC
  | .z => bitField Config.bitZ

/-- The special instruction mnemonics of R114. -/
inductive Special where
  /-- `CLRC`, `CLRDC`, `CLRZ` -/
  | clear (flag : SpecialFlag)
  /-- `SETC`, `SETDC`, `SETZ` -/
  | set (flag : SpecialFlag)
  /-- `SKPC`, `SKPDC`, `SKPZ` -/
  | skipIf (flag : SpecialFlag)
  /-- `SKPNC`, `SKPNDC`, `SKPNZ` -/
  | skipIfNot (flag : SpecialFlag)
  /-- `B k` -/
  | branch (k : BitVec 11)
  /-- `BC k`, `BDC k`, `BZ k` -/
  | branchIf (flag : SpecialFlag) (k : BitVec 11)
  /-- `BNC k`, `BNDC k`, `BNZ k` -/
  | branchIfNot (flag : SpecialFlag) (k : BitVec 11)
  /-- `MOVFW f` -/
  | movfw (f : FileField)
  /-- `TSTF f` -/
  | tstf (f : FileField)
  /-- `NEGF f,d` -/
  | negf (f : FileField) (d : Dest)
  /-- `ADDCF f,d` -/
  | addcf (f : FileField) (d : Dest)
  /-- `SUBCF f,d` -/
  | subcf (f : FileField) (d : Dest)
  /-- `ADDDCF f,d` -/
  | adddcf (f : FileField) (d : Dest)
  /-- `SUBDCF f,d` -/
  | subdcf (f : FileField) (d : Dest)
  /-- `LCALL k`, for a full program address -/
  | lcall (target : ProgAddr)
  /-- `LGOTO k`, for a full program address -/
  | lgoto (target : ProgAddr)
deriving DecidableEq, Repr

/-- Set or clear PCLATH<4:3> for a target's page. -/
def selectPage (target : ProgAddr) : List Instr :=
  [if target.getLsbD 11 then .bsf pclathField (bitField 3) else .bcf pclathField (bitField 3),
   if target.getLsbD 12 then .bsf pclathField (bitField 4) else .bcf pclathField (bitField 4)]

/-- The expansions of R114. -/
def expandSpecial : Special → List Instr
  | .clear flag => [.bcf statusField flag.bit]
  | .set flag => [.bsf statusField flag.bit]
  | .skipIf flag => [.btfss statusField flag.bit]
  | .skipIfNot flag => [.btfsc statusField flag.bit]
  | .branch k => [.goto k]
  | .branchIf flag k => [.btfsc statusField flag.bit, .goto k]
  | .branchIfNot flag k => [.btfss statusField flag.bit, .goto k]
  | .movfw f => [.movf f .w]
  | .tstf f => [.movf f .file]
  | .negf f d => [.comf f .file, .incf f d]
  | .addcf f d => [.btfsc statusField (bitField Config.bitC), .incf f d]
  | .subcf f d => [.btfsc statusField (bitField Config.bitC), .decf f d]
  | .adddcf f d => [.btfsc statusField (bitField Config.bitDC), .incf f d]
  | .subdcf f d => [.btfsc statusField (bitField Config.bitDC), .decf f d]
  | .lcall target => selectPage target ++ [.call (targetLiteral target)]
  | .lgoto target => selectPage target ++ [.goto (targetLiteral target)]

end Sys2Proof.Machine
end

