-- ==== Sys2Proof/Tests/Slice0.lean ====
section
/-! SUPPORT. The model's own tests: decoded words written bit by bit from rule R104 and 95_test_vectors.md part 2,
one-step vectors of parts 1 and 3, the well-formedness smoke tests, and a witness for the hypotheses of each
statement. Every expected value is the spec's. -/

namespace Sys2Proof.Tests

open Sys2Proof.Machine

/-! ### Decoding: one word per constructor, bit 13 first (R104, part 2) -/

theorem test_decode_addwf : decode 0b00011110100000#14 = .addwf 0x20 .file := by decide
theorem test_decode_addwf_w : decode 0b00011100100000#14 = .addwf 0x20 .w := by decide
theorem test_decode_andwf : decode 0b00010110100000#14 = .andwf 0x20 .file := by decide
theorem test_decode_clrf : decode 0b00000110100000#14 = .clrf 0x20 := by decide
theorem test_decode_clrw : decode 0b00000100000000#14 = .clrw := by decide
theorem test_decode_comf : decode 0b00100110100000#14 = .comf 0x20 .file := by decide
theorem test_decode_decf : decode 0b00001110100000#14 = .decf 0x20 .file := by decide
theorem test_decode_decfsz : decode 0b00101110100000#14 = .decfsz 0x20 .file := by decide
theorem test_decode_incf : decode 0b00101010100000#14 = .incf 0x20 .file := by decide
theorem test_decode_incfsz : decode 0b00111110100000#14 = .incfsz 0x20 .file := by decide
theorem test_decode_iorwf : decode 0b00010010100000#14 = .iorwf 0x20 .file := by decide
theorem test_decode_movf : decode 0b00100010100000#14 = .movf 0x20 .file := by decide
theorem test_decode_movwf : decode 0b00000010100000#14 = .movwf 0x20 := by decide
theorem test_decode_nop : decode 0b00000000000000#14 = .nop := by decide
theorem test_decode_rlf : decode 0b00110110100000#14 = .rlf 0x20 .file := by decide
theorem test_decode_rrf : decode 0b00110010100000#14 = .rrf 0x20 .file := by decide
theorem test_decode_subwf : decode 0b00001010100000#14 = .subwf 0x20 .file := by decide
theorem test_decode_swapf : decode 0b00111010100000#14 = .swapf 0x20 .file := by decide
theorem test_decode_xorwf : decode 0b00011010100000#14 = .xorwf 0x20 .file := by decide
theorem test_decode_bcf : decode 0b01001110100000#14 = .bcf 0x20 7 := by decide
theorem test_decode_bsf : decode 0b01011010000011#14 = .bsf 0x03 5 := by decide
theorem test_decode_btfsc : decode 0b01100100000011#14 = .btfsc 0x03 2 := by decide
theorem test_decode_btfss : decode 0b01110000000011#14 = .btfss 0x03 0 := by decide
theorem test_decode_addlw : decode 0b11111000010101#14 = .addlw 0x15 := by decide
theorem test_decode_andlw : decode 0b11100101011111#14 = .andlw 0x5F := by decide
theorem test_decode_call : decode 0b10001000110100#14 = .call 0x234 := by decide
theorem test_decode_clrwdt : decode 0b00000001100100#14 = .clrwdt := by decide
theorem test_decode_goto : decode 0b10100100100011#14 = .goto 0x123 := by decide
theorem test_decode_iorlw : decode 0b11100000110101#14 = .iorlw 0x35 := by decide
theorem test_decode_movlw : decode 0b11000001011010#14 = .movlw 0x5A := by decide
theorem test_decode_retfie : decode 0b00000000001001#14 = .retfie := by decide
theorem test_decode_retlw : decode 0b11010001000001#14 = .retlw 0x41 := by decide
theorem test_decode_return : decode 0b00000000001000#14 = .ret := by decide
theorem test_decode_sleep : decode 0b00000001100011#14 = .sleep := by decide
theorem test_decode_sublw : decode 0b11110000000010#14 = .sublw 0x02 := by decide
theorem test_decode_xorlw : decode 0b11101010101111#14 = .xorlw 0xAF := by decide
theorem test_decode_option : decode 0b00000001100010#14 = .option := by decide
theorem test_decode_tris : decode 0b00000001100110#14 = .tris 6 := by decide
theorem test_decode_reserved : decode 0b11101100000000#14 = .reserved 0x3B00 := by decide
theorem test_decode_addlw_dont_care : decode 0b11111100010101#14 = .addlw 0x15 := by decide
theorem test_decode_movlw_dont_care : decode 0b11001101010101#14 = .movlw 0x55 := by decide
theorem test_decode_retlw_dont_care : decode 0b11011110101010#14 = .retlw 0xAA := by decide
theorem test_decode_nop_dont_care : decode 0b00000001100000#14 = .nop := by decide
theorem test_decode_clrw_dont_care : decode 0b00000101111111#14 = .clrw := by decide
theorem test_decode_reserved_low : decode 0b00000001101000#14 = .reserved 0x0068 := by decide

/-- A table row is read as a 14-bit word (bit 0 the least significant). -/
theorem test_table_word : decodeTableWord 16 0x0782 = some (.addwf 0x02 .file) := by decide

/-- A number that fits no word is rejected by name. -/
theorem test_wider_than_a_word : decodeNumber 0x4000 = .error .widerThanAWord := by rfl

/-! ### Well-formedness: an ill-formed term for each check -/

theorem test_tris_4_ill_formed : (Instr.tris 4).wellFormed = false := by decide
theorem test_reserved_nop_ill_formed : (Instr.reserved 0x0020).wellFormed = false := by decide
theorem test_reserved_sublw_ill_formed : (Instr.reserved 0x3C00).wellFormed = false := by decide

/-! ### One step: W, the byte at 0x20, STATUS and the pc after the instruction (parts 1 and 3) -/

/-- The start of part 3: pc 0x0100, the operand at 0x20 of bank 0. -/
def start (w x st : Byte) : State :=
  { State.reset with pc := 0x0100, w := w, status := st, ram := Memory.write [] 0x20 x }

/-- The instruction answers a next state that passes the check. -/
def runs (i : Instr) (s : State) (check : State → Bool) : Bool :=
  match exec i s with
  | .next t => check t
  | .fault _ => false
  | .refused _ => false

/-- The instruction answers a next state with these values. -/
def leaves (i : Instr) (s : State) (w x st : Byte) (pc : ProgAddr) : Bool :=
  runs i s fun t => t.w == w && Memory.read t.ram 0x20 == x && t.status == st && t.pc == pc

/-- The instruction stops with this fault. -/
def faults (i : Instr) (s : State) (r : Fault) : Bool :=
  match exec i s with
  | .fault q => q == r
  | .next _ => false
  | .refused _ => false

/-- The instruction is refused for this reason. -/
def refuses (i : Instr) (s : State) (r : Refusal) : Bool :=
  match exec i s with
  | .refused q => q == r
  | .next _ => false
  | .fault _ => false

theorem test_addwf_digit_carry : leaves (.addwf 0x20 .file) (start 0x0F 0x01 0x18) 0x0F 0x10 0x1A 0x101 = true := by decide
theorem test_addwf_to_w : leaves (.addwf 0x20 .w) (start 0x80 0x80 0x18) 0x00 0x80 0x1D 0x101 = true := by decide
theorem test_andwf_zero : leaves (.andwf 0x20 .file) (start 0xF0 0x0F 0x18) 0xF0 0x00 0x1C 0x101 = true := by decide
theorem test_andwf_to_w : leaves (.andwf 0x20 .w) (start 0xFF 0x81 0x1C) 0x81 0x81 0x18 0x101 = true := by decide
theorem test_clrf : leaves (.clrf 0x20) (start 0x33 0x5A 0x18) 0x33 0x00 0x1C 0x101 = true := by decide
theorem test_clrw : leaves (.clrw) (start 0x5A 0x11 0x18) 0x00 0x11 0x1C 0x101 = true := by decide
theorem test_comf_file : leaves (.comf 0x20 .file) (start 0x33 0x00 0x1C) 0x33 0xFF 0x18 0x101 = true := by decide
theorem test_comf_w : leaves (.comf 0x20 .w) (start 0x33 0xFF 0x18) 0x00 0xFF 0x1C 0x101 = true := by decide
theorem test_decf_keeps_c : leaves (.decf 0x20 .file) (start 0x33 0x01 0x19) 0x33 0x00 0x1D 0x101 = true := by decide
theorem test_decf_wraps : leaves (.decf 0x20 .file) (start 0x33 0x00 0x18) 0x33 0xFF 0x18 0x101 = true := by decide
theorem test_decfsz_skips : leaves (.decfsz 0x20 .w) (start 0x55 0x01 0x18) 0x00 0x01 0x18 0x102 = true := by decide
theorem test_decfsz_wraps : leaves (.decfsz 0x20 .file) (start 0x55 0x00 0x18) 0x55 0xFF 0x18 0x101 = true := by decide
theorem test_incf_wraps : leaves (.incf 0x20 .file) (start 0x33 0xFF 0x18) 0x33 0x00 0x1C 0x101 = true := by decide
theorem test_incf_file : leaves (.incf 0x20 .file) (start 0x33 0x7F 0x19) 0x33 0x80 0x19 0x101 = true := by decide
theorem test_incfsz_skips : leaves (.incfsz 0x20 .file) (start 0x33 0xFF 0x18) 0x33 0x00 0x18 0x102 = true := by decide
theorem test_incfsz_goes_on : leaves (.incfsz 0x20 .file) (start 0x33 0xFE 0x18) 0x33 0xFF 0x18 0x101 = true := by decide
theorem test_iorwf_zero : leaves (.iorwf 0x20 .file) (start 0x00 0x00 0x18) 0x00 0x00 0x1C 0x101 = true := by decide
theorem test_iorwf_to_w : leaves (.iorwf 0x20 .w) (start 0x0F 0xF0 0x1C) 0xFF 0xF0 0x18 0x101 = true := by decide
theorem test_movf_tests : leaves (.movf 0x20 .file) (start 0x33 0x00 0x18) 0x33 0x00 0x1C 0x101 = true := by decide
theorem test_movf_to_w : leaves (.movf 0x20 .w) (start 0x33 0x80 0x1C) 0x80 0x80 0x18 0x101 = true := by decide
theorem test_movwf : leaves (.movwf 0x20) (start 0x00 0x55 0x18) 0x00 0x00 0x18 0x101 = true := by decide
theorem test_nop : leaves (.nop) (start 0x12 0x34 0x1F) 0x12 0x34 0x1F 0x101 = true := by decide
theorem test_rlf_out : leaves (.rlf 0x20 .file) (start 0x33 0x80 0x18) 0x33 0x00 0x19 0x101 = true := by decide
theorem test_rlf_in : leaves (.rlf 0x20 .w) (start 0x33 0xE6 0x18) 0xCC 0xE6 0x19 0x101 = true := by decide
theorem test_rrf_in : leaves (.rrf 0x20 .file) (start 0x33 0x00 0x19) 0x33 0x80 0x18 0x101 = true := by decide
theorem test_rrf_example : leaves (.rrf 0x20 .w) (start 0x33 0xE6 0x18) 0x73 0xE6 0x18 0x101 = true := by decide
theorem test_subwf_digit_borrow : leaves (.subwf 0x20 .file) (start 0x01 0x10 0x18) 0x01 0x0F 0x19 0x101 = true := by decide
theorem test_subwf_borrow : leaves (.subwf 0x20 .file) (start 0x02 0x01 0x18) 0x02 0xFF 0x18 0x101 = true := by decide
theorem test_swapf : leaves (.swapf 0x20 .file) (start 0x33 0xF0 0x1F) 0x33 0x0F 0x1F 0x101 = true := by decide
theorem test_swapf_w : leaves (.swapf 0x20 .w) (start 0x33 0xA5 0x18) 0x5A 0xA5 0x18 0x101 = true := by decide
theorem test_xorwf_equal : leaves (.xorwf 0x20 .file) (start 0x5A 0x5A 0x18) 0x5A 0x00 0x1C 0x101 = true := by decide
theorem test_xorwf_w : leaves (.xorwf 0x20 .w) (start 0xB5 0xAF 0x18) 0x1A 0xAF 0x18 0x101 = true := by decide
theorem test_bcf_bit7 : leaves (.bcf 0x20 7) (start 0x33 0xC7 0x18) 0x33 0x47 0x18 0x101 = true := by decide
theorem test_bsf_bit3 : leaves (.bsf 0x20 3) (start 0x33 0x20 0x18) 0x33 0x28 0x18 0x101 = true := by decide
theorem test_btfsc_skips : leaves (.btfsc 0x20 7) (start 0x33 0x7F 0x18) 0x33 0x7F 0x18 0x102 = true := by decide
theorem test_btfsc_goes_on : leaves (.btfsc 0x20 7) (start 0x33 0x80 0x18) 0x33 0x80 0x18 0x101 = true := by decide
theorem test_btfss_skips : leaves (.btfss 0x20 0) (start 0x33 0x01 0x18) 0x33 0x01 0x18 0x102 = true := by decide
theorem test_btfss_goes_on : leaves (.btfss 0x20 0) (start 0x33 0xFE 0x18) 0x33 0xFE 0x18 0x101 = true := by decide
theorem test_addlw_wraps : leaves (.addlw 0xFF) (start 0x01 0x00 0x18) 0x00 0x00 0x1F 0x101 = true := by decide
theorem test_addlw_clears : leaves (.addlw 0xFF) (start 0x00 0x00 0x1F) 0xFF 0x00 0x18 0x101 = true := by decide
theorem test_andlw : leaves (.andlw 0x5F) (start 0xA3 0x00 0x1C) 0x03 0x00 0x18 0x101 = true := by decide
theorem test_iorlw : leaves (.iorlw 0x35) (start 0x9A 0x00 0x1C) 0xBF 0x00 0x18 0x101 = true := by decide
theorem test_xorlw : leaves (.xorlw 0x5A) (start 0x5A 0x00 0x18) 0x00 0x00 0x1C 0x101 = true := by decide
theorem test_movlw_keeps_z : leaves (.movlw 0x00) (start 0x55 0x00 0x18) 0x00 0x00 0x18 0x101 = true := by decide
theorem test_sublw_negative : leaves (.sublw 0x02) (start 0x03 0x00 0x18) 0xFF 0x00 0x18 0x101 = true := by decide
theorem test_sublw_low_digit : leaves (.sublw 0x00) (start 0x80 0x00 0x18) 0x80 0x00 0x1A 0x101 = true := by decide

/-! ### Control transfer and system (part 3.6) -/

/-- The wrap-around stack holding the entries given, the last one on top, on the default device. -/
def withStack (s : State) (entries : List ProgAddr) : State := entries.foldl State.pushed s

/-- The same state on the device with the spec's stopping defaults. -/
def strict (s : State) : State := { s with dev := Config.strictDevice }

theorem test_goto_page : runs (.goto 0x123) { start 0 0 0x18 with pclath := 0x1F } (fun t => t.pc == 0x1923) = true := by
  decide
theorem test_call : runs (.call 0x234) { withStack (start 0 0 0x18) [0x0011] with pc := 0x0A00 }
    (fun t => t.pc == 0x0234 && t.tos == 0x0A01 && t.popped.tos == 0x0011 && t.held == 2) = true := by decide
theorem test_call_full_faults :
    faults (.call 0) (strict (withStack (start 0 0 0x18) [1, 2, 3, 4, 5, 6, 7, 8])) .stackOverflow = true := by decide
theorem test_return : runs .ret (withStack (start 0x77 0 0x18) [0x0011, 0x0A01])
    (fun t => t.pc == 0x0A01 && t.tos == 0x0011 && t.w == 0x77 && t.held == 1) = true := by decide
/-- A circle of two: the third push overwrites the oldest entry, and the pop of an empty stack gives a stale one (D4). -/
theorem test_stack_of_two :
    let s := withStack { start 0 0 0x18 with dev := { Config.defaultDevice with stackDepth := 2 }, below := [0] } [1, 2, 3]
    (s.tos, s.popped.tos, s.popped.popped.tos, s.popped.popped.popped.tos) = (3, 2, 3, 2) ∧ s.held = 2 := by decide
theorem test_return_empty_faults : faults .ret (strict (start 0 0 0x18)) .stackUnderflow = true := by decide
theorem test_retlw : runs (.retlw 0x42) (withStack (start 0 0 0x1C) [0x1ABC])
    (fun t => t.pc == 0x1ABC && t.w == 0x42 && t.status == 0x1C && t.held == 0) = true := by decide
theorem test_retfie : runs .retfie { withStack (start 0 0 0x18) [0x0155] with intcon := 0x20 }
    (fun t => t.pc == 0x0155 && t.intcon == 0xA0) = true := by decide
theorem test_clrwdt : runs .clrwdt { start 0 0 0xE7 with wdt := 9, psc := 5 }
    (fun t => t.status == 0xFF && t.wdt == 0 && t.psc == 0 && t.pc == 0x0101) = true := by decide
theorem test_sleep : runs .sleep { start 0 0 0x1F with wdt := 9, psc := 5 }
    (fun t => t.status == 0x17 && t.wdt == 0 && t.psc == 0 && t.pc == 0x0101 && t.asleep) = true := by decide
theorem test_option : runs .option (start 0x4F 0 0x38) (fun t => t.optionReg == 0x4F && t.pc == 0x0101) = true := by
  decide
theorem test_tris : runs (.tris 6) (start 0xF0 0 0x18) (fun t => t.portB.tris == 0xF0 && t.portA.tris == 0xFF) = true := by
  decide
theorem test_tris_refused_without_it : refuses (.tris 6) (strict (start 0xF0 0 0x18)) (.reservedOpcode 0x0066) = true := by
  decide
theorem test_reserved_refused : refuses (.reserved 0x3BFF) State.reset (.reservedOpcode 0x3BFF) = true := by decide

/-! ### Special operands (part 3.4) -/

theorem test_addwf_pcl : runs (.addwf 0x02 .file) { start 0x03 0 0x18 with pc := 0x0105, pclath := 0x00 }
    (fun t => t.pc == 0x0009 && t.status == 0x18) = true := by decide
theorem test_movf_pcl : runs (.movf 0x02 .w) { start 0x33 0 0x18 with pc := 0x01FF }
    (fun t => t.w == 0x00 && t.status == 0x1C && t.pc == 0x0200) = true := by decide
theorem test_decfsz_pcl_zero_refused : refuses (.decfsz 0x02 .file) (start 0 0 0x18) .skipAndJump = true := by decide
theorem test_clrf_status : leaves (.clrf 0x03) (start 0 0 0xFF) 0 0 0x04 0x0101 = true := by decide
theorem test_clrf_status_masked :
    leaves (.clrf 0x03) { start 0 0 0xFF with dev := { Config.defaultDevice with toPdWritable := false } } 0 0 0x1C
      0x0101 = true := by decide
theorem test_rlf_status : leaves (.rlf 0x03 .file) (start 0 0 0x19) 0 0 0x32 0x0101 = true := by decide
theorem test_incf_through_fsr : runs (.incf 0x00 .file) { start 0 0 0x18 with fsr := 0x04 }
    (fun t => t.fsr == 0x05) = true := by decide
theorem test_indf_through_itself : runs (.movf 0x00 .w) { start 0x33 0 0x18 with fsr := 0x80 }
    (fun t => t.w == 0x00 && t.status == 0x1C) = true := by decide
theorem test_bank_1 : runs (.movwf 0x20) (start 0x5A 0x11 0x38)
    (fun t => Memory.read t.ram 0xA0 == 0x5A && Memory.read t.ram 0x20 == 0x11) = true := by decide
theorem test_pclath_five_bits : runs (.movwf 0x0A) (start 0xAB 0 0x18) (fun t => t.pclath == 0x0B) = true := by decide
theorem test_tmr0_clears_prescaler : runs (.movwf 0x01) { start 0x10 0 0x18 with psc := 5, optionReg := 0xF7 }
    (fun t => t.tmr0 == 0x10 && t.psc == 0) = true := by decide
/-- 29.6 Answer 4: RB3 an input held low, the latch all ones; `BCF PORTB,6` writes back 1011 0111. -/
theorem test_bcf_port : runs (.bcf 0x06 6) { start 0 0 0x18 with portB := ⟨0xFF, 0x08, 0x00, 0x00, 0x00⟩ }
    (fun t => t.portB.latch == 0xB7) = true := by decide
theorem test_unimplemented_refused :
    faults (.movwf 0x10) (strict (start 0 0 0x18)) (.unimplementedAddress 0x10) = true := by decide

/-! ### Steps -/

/-- The step answers a next state that passes the check. -/
def steps (s : State) (check : State → Bool) : Bool :=
  match step s with
  | .next t => check t
  | .fault _ => false
  | .refused _ => false

/-- A pending request with GIE set, after a `NOP` at 0x0100 (part 3.6). -/
theorem test_interrupt_entry : steps { start 0 0 0x18 with pc := 0x0101, intcon := 0xA0, inputs := [⟨[], true, false, false⟩] }
    (fun t => t.pc == 0x0004 && t.tos == 0x0101 && t.intcon == 0x20) = true := by decide
theorem test_first_step_after_reset : steps (State.reset.withFetchWord 16 0x305A) (fun t => t.w == 0x5A && t.pc == 1) = true := by
  decide
theorem test_wdt_wakes : steps { State.reset.withFetchWord 16 0x305A with asleep := true, status := 0x10, inputs := [⟨[], false, true, false⟩] }
    (fun t => t.w == 0x5A && t.status == 0x00 && !t.asleep) = true := by decide
theorem test_wdt_resets : steps { start 0 0 0x18 with intcon := 0xFF, inputs := [⟨[], false, true, false⟩] }
    (fun t => t.pc == 0 && t.held == 0 && t.optionReg == 0xFF) = true := by decide

/-! ### Witnesses: for each statement with hypotheses, states and operands that meet all of them

Named after the statement of Certificates/Slice0/Obligations.lean; `_2`, `_3` are further clauses. -/

/-- The start of part 3 on the device that refuses what is unimplemented and faults on the stack. -/
def strictStart : State := strict (start 0x01 0x00 0x18)

/-- A program of one word at 0x0100, nothing happening. -/
def oneWord (w : InstrWord) : State := { start 0 0 0x18 with program := [(0x0100, w)] }

/-- That program at a boundary. -/
def atBoundary (w : InstrWord) (b : Boundary) : State := { oneWord w with inputs := [b] }

theorem witness_DecodeOfEncode :
    (Instr.tris 5).wellFormed = true ∧ (Instr.reserved 0x007F).wellFormed = true ∧
      (Instr.reserved 0x3BFF).wellFormed = true ∧ (Instr.goto 0x7FF).wellFormed = true := by decide
theorem witness_WordsOfAnInstruction : decode 0x3FFF = .addlw 0xFF ∧ decode 0x0000 = .nop := by decide
theorem witness_DontCareBits : decode 0x0020 = decode 0x0060 ∧ decode 0x0700 = decode 0x0700 := by decide
theorem witness_ReservedWords : decode 0x3B00 = .reserved 0x3B00 ∧ decode 0x0001 = .reserved 0x0001 := by decide
theorem witness_StepRunsDecoded : (oneWord 0x3055).Quiet ∧ (oneWord 0x3055).fetch = some 0x3055 := ⟨⟨rfl, rfl⟩, rfl⟩
theorem witness_FetchStops : State.reset.Quiet ∧ Program.read State.reset.program State.reset.pc = none :=
  ⟨⟨rfl, rfl⟩, rfl⟩
theorem witness_FetchStops_2 :
    { oneWord 0x3055 with dev := { Config.defaultDevice with progWords := 0x0100 } }.Quiet ∧
      { oneWord 0x3055 with dev := { Config.defaultDevice with progWords := 0x0100 } }.dev.progWords ≤
        (oneWord 0x3055).pc.toNat := ⟨⟨rfl, rfl⟩, by decide⟩
theorem witness_AddwfSubwf : strictStart.Allows 0x20 ∧ strictStart.Allows 0x7F := ⟨rfl, rfl⟩
theorem witness_ZeroFlagOperations : strictStart.Allows 0x00 ∧ (start 1 2 0x18).Allows 0x10 := ⟨rfl, rfl⟩
theorem witness_DecfDecrements : strictStart.Allows 0x03 := rfl
theorem witness_RotatesThroughCarry : strictStart.Allows 0x20 ∧ strictStart.resolve 0x20 = .ram 0x20 := ⟨rfl, by decide⟩
theorem witness_SwapfSwapsNibbles : strictStart.Allows 0x7F ∧ strictStart.resolve 0x7F = .ram 0x7F := ⟨rfl, by decide⟩
theorem witness_ClrfMovwf : strictStart.Allows 0x02 ∧ strictStart.Allows 0x06 := ⟨rfl, rfl⟩
theorem witness_DecfszIncfsz : strictStart.Allows 0x20 ∧ strictStart.operand 0x20 - 1 ≠ 0 := ⟨rfl, by decide⟩
theorem witness_DecfszIncfsz_2 : (start 0 0x01 0x18).Allows 0x20 ∧ (start 0 0x01 0x18).operand 0x20 - 1 = 0 ∧
    writtenReg ((start 0 0x01 0x18).resolve 0x20) .file ≠ .pcl := ⟨rfl, by decide, by decide⟩
theorem witness_DecfszIncfsz_3 : (start 0 0 0x18).Allows 0x02 ∧ (start 0 0 0x18).operand 0x02 - 1 = 0 ∧
    writtenReg ((start 0 0 0x18).resolve 0x02) .file = .pcl := ⟨rfl, by decide, by decide⟩
theorem witness_DestinationSelect : ∃ t u, exec (.rlf 0x20 .w) strictStart = .next t ∧
    exec (.rlf 0x20 .file) strictStart = .next u := ⟨_, _, rfl, rfl⟩
theorem witness_ZeroFlag : ∃ t u, exec (.subwf 0x03 .w) strictStart = .next t ∧
    exec (.subwf 0x03 .file) strictStart = .next u := ⟨_, _, rfl, rfl⟩
theorem witness_ZeroFlag_2 : ∃ t u, exec (.addlw 0xFF) strictStart = .next t ∧ exec (.clrf 0x20) strictStart = .next u :=
  ⟨_, _, rfl, rfl⟩
theorem witness_BcfBsf : strictStart.Allows 0x03 ∧ strictStart.Allows 0x0B := ⟨rfl, rfl⟩
theorem witness_BtfscBtfss : strictStart.Allows 0x02 ∧ strictStart.Allows 0x20 := ⟨rfl, rfl⟩
theorem witness_CallPushesAndJumps : (withStack (start 0 0 0x18) [1, 2, 3, 4, 5, 6, 7, 8]).MayPush ∧
    (strict (withStack (start 0 0 0x18) [1, 2, 3, 4, 5, 6, 7])).MayPush := ⟨.inl rfl, .inr (by decide)⟩
theorem witness_Returns : (start 0 0 0x18).MayPop ∧ (strict (withStack (start 0 0 0x18) [1])).MayPop :=
  ⟨.inl rfl, .inr (by decide)⟩
theorem witness_CallThenReturn : strictStart.MayPush ∧ strictStart.held < strictStart.dev.stackDepth ∧
    6 + 1 < strictStart.dev.stackDepth ∧ strictStart.stackEntry 6 = some 0 := ⟨.inr (by decide), by decide, by decide, rfl⟩
theorem witness_StackStops : (strict (withStack (start 0 0 0x18) [1, 2, 3, 4, 5, 6, 7, 8])).dev.stackPolicy = .fault ∧
    (strict (withStack (start 0 0 0x18) [1, 2, 3, 4, 5, 6, 7, 8])).dev.stackDepth ≤
      (strict (withStack (start 0 0 0x18) [1, 2, 3, 4, 5, 6, 7, 8])).held := ⟨rfl, by decide⟩
theorem witness_StackStops_2 : strictStart.dev.stackPolicy = .fault ∧ strictStart.held = 0 := ⟨rfl, rfl⟩
theorem witness_OnlyCallsAndReturnsUseTheStack : ∃ t, exec (.tris 7) (start 0 0 0x18) = .next t := ⟨_, rfl⟩
theorem witness_OptionLoads : strictStart.dev.hasOption = true := rfl
theorem witness_TrisLoads : (start 0 0 0x18).dev.hasTris = true ∧ .a ∈ (start 0 0 0x18).dev.ports ∧
    .b ∈ (start 0 0 0x18).dev.ports ∧ .c ∈ (start 0 0 0x18).dev.ports := by decide
theorem witness_ReservedRefused : { Config.defaultDevice with hasOption := false }.hasOption = false ∧
    strictStart.dev.hasTris = false := ⟨rfl, rfl⟩
theorem witness_ReservedRefused_2 : ∀ p ∈ [PortId.a, PortId.b], trisPort 7 ≠ some p := by decide
theorem witness_OperandAddress : (0x01 : FileField) ≠ 0 ∧ (0x7F : FileField) ≠ 0 := by decide
theorem witness_RegisterMap : (0x180 : DataAddr).toNat % 128 = 0x00 ∧ (0x182 : DataAddr).toNat % 128 = 0x02 ∧
    (0x083 : DataAddr).toNat % 128 = 0x03 ∧ (0x104 : DataAddr).toNat % 128 = 0x04 ∧
    (0x18A : DataAddr).toNat % 128 = 0x0A ∧ (0x00B : DataAddr).toNat % 128 = 0x0B := by decide
theorem witness_RegisterMap_2 : Config.defaultDevice.mirrors = [] ∧ (∀ p, p ∈ Config.defaultDevice.ports) ∧
    (0x087 : DataAddr).toNat % 128 ∉ [0x00, 0x02, 0x03, 0x04, 0x0A, 0x0B] :=
  ⟨rfl, fun p => by cases p <;> decide, by decide⟩
/-- The ends of a run of general purpose bytes, and an address beyond them. -/
theorem witness_RegisterMap_3 : ∃ r ∈ Config.defaultDevice.ram,
    (r.base ≤ (0x020 : DataAddr).toNat ∧ (0x020 : DataAddr).toNat < r.base + r.size) ∧
      r.base ≤ (0x07F : DataAddr).toNat ∧ (0x07F : DataAddr).toNat < r.base + r.size :=
  ⟨⟨0x20, 0x60⟩, by decide, by decide, by decide⟩
theorem witness_RegisterMap_4 : ∀ r ∈ Config.defaultDevice.ram,
    (0x120 : DataAddr).toNat < r.base ∨ r.base + r.size ≤ (0x120 : DataAddr).toNat := by decide
/-- A device whose 0x1F0 to 0x1FF and 0xF0 to 0xFF are other names of 0x70 to 0x7F (R65 (b)). -/
def mirrored : Device := { Config.defaultDevice with mirrors := [⟨0x1F0, 0x10, 0x70⟩, ⟨0xF0, 0x10, 0x70⟩] }
theorem witness_RegisterMap_5 : mirrored.mirrors = [⟨0x1F0, 0x10, 0x70⟩] ++ ⟨0xF0, 0x10, 0x70⟩ :: [] ∧
    (∀ n ∈ [(⟨0x1F0, 0x10, 0x70⟩ : Mirror)], (0x0FF : DataAddr).toNat < n.base ∨ n.base + n.size ≤ (0x0FF : DataAddr).toNat) ∧
    0xF0 ≤ (0x0FF : DataAddr).toNat ∧ (0x0FF : DataAddr).toNat < 0xF0 + 0x10 := by decide
theorem test_mirror : locate mirrored 0x0FF = .ram 0x7F ∧ locate mirrored 0x0F0 = .ram 0x70 := by decide
theorem witness_RegisterMap_6 : State.reset.fsr.toNat % 128 = 0 ∧ (0x80 : Byte).toNat % 128 = 0 := by decide
theorem witness_UnimplementedOperands : operandField (.bcf 0x1F 7) = some 0x1F ∧ ¬ strictStart.Allows 0x1F :=
  ⟨rfl, by unfold State.Allows; decide⟩
theorem witness_UnimplementedOperands_2 : (start 0 0 0x18).dev.unimplemented = .readsZero ∧
    (start 0 0 0x18).resolve 0x1F = .unimplemented 0x1F := ⟨rfl, by decide⟩
theorem witness_PclAsOperand : strictStart.resolve 0x02 = .pcl ∧ storesTo (.bcf 0x02 7) = some 0x02 ∧
    (∃ t, exec (.bcf 0x02 7) strictStart = .next t) ∧
    ∃ t u, exec (.comf 0x02 .w) strictStart = .next t ∧ exec (.comf 0x02 .file) strictStart = .next u :=
  ⟨by decide, rfl, ⟨_, rfl⟩, _, _, rfl, rfl⟩
theorem witness_PortReadModifyWrite : strictStart.resolve 0x06 = .port .b := by decide
theorem witness_PortReadModifyWrite_2 : (⟨0, 0, 0, 0, 0x80⟩ : PortRegs).analog.getLsbD 7 = true ∧
    (⟨0, 0xFE, 0, 0xFE, 0⟩ : PortRegs).tris.getLsbD 0 = false ∧ (⟨0, 0xFE, 0, 0xFE, 0⟩ : PortRegs).load.getLsbD 0 = false ∧
    (⟨0, 0x00, 0, 0x80, 0⟩ : PortRegs).load.getLsbD 7 = true := by decide
theorem witness_StatusAsDestination : strictStart.resolve 0x03 = .status := by decide
theorem witness_Tmr0ClearsPrescaler : storesTo (.movwf 0x01) = some 0x01 ∧ strictStart.resolve 0x01 = .tmr0 ∧
    ∃ t, exec (.movwf 0x01) strictStart = .next t := ⟨rfl, by decide, _, rfl⟩
theorem witness_OnlyTheStoredRegister : storesTo (.swapf 0x20 .file) = some 0x20 ∧
    (∃ t, exec (.swapf 0x20 .file) strictStart = .next t) ∧ storesTo (.swapf 0x20 .w) = none ∧
    ∃ t, exec (.swapf 0x20 .w) strictStart = .next t := ⟨rfl, ⟨_, rfl⟩, rfl, _, rfl⟩
theorem witness_OnlyTheStoredRegister_2 : (∃ t, exec .retfie (start 0 0 0x18) = .next t) ∧
    (∃ t, exec .option (start 0 0 0x18) = .next t) ∧ trisPort 5 = some .a ∧
    (∃ t, exec (.tris 5) (start 0 0 0x18) = .next t) ∧ (∃ t, exec .clrwdt (start 0 0 0x18) = .next t) ∧
    ∃ t, exec .sleep (start 0 0 0x18) = .next t := ⟨⟨_, rfl⟩, ⟨_, rfl⟩, rfl, ⟨_, rfl⟩, ⟨_, rfl⟩, _, rfl⟩
theorem witness_StoreThenLoad : strictStart.resolve 0x7F = .ram 0x7F ∧
    { strictStart with fsr := 0xFF }.resolve 0x00 = .ram 0xFF := by decide
theorem witness_StoreThenLoad_2 : strictStart.resolve 0x01 = .tmr0 ∧ strictStart.resolve 0x03 = .status ∧
    strictStart.resolve 0x04 = .fsr ∧ (0x04 : FileField) ≠ 0 ∧ strictStart.resolve 0x0A = .pclath ∧
    strictStart.resolve 0x0B = .intcon ∧ { strictStart with status := 0x38 }.resolve 0x01 = .optionReg ∧
    { strictStart with status := 0x38 }.resolve 0x07 = .tris .c := by decide
theorem witness_InterruptEntry :
    State.TakesInterrupt { atBoundary 0x3055 ⟨[.intconFlags 0x04 0x00], true, false, false⟩ with intcon := 0xA0 } :=
  ⟨rfl, rfl, rfl, rfl, by decide, .inl rfl⟩
theorem witness_InterruptThenRetfie :
    State.TakesInterrupt (strict { atBoundary 0x3055 ⟨[], true, false, false⟩ with intcon := 0x80, held := 7 }) :=
  ⟨rfl, rfl, rfl, rfl, by decide, .inr (by decide)⟩
theorem witness_MaskedInterruptWaits : (atBoundary 0x3055 ⟨[], true, false, false⟩).nextBoundary.mclr = false ∧
    (atBoundary 0x3055 ⟨[], true, false, false⟩).nextBoundary.wdt = false ∧
    (atBoundary 0x3055 ⟨[], true, false, false⟩).asleep = false ∧
    (atBoundary 0x3055 ⟨[], true, false, false⟩).afterUpdates.intcon.getLsbD 7 = false ∧
    (atBoundary 0x3055 ⟨[], true, false, false⟩).afterUpdates.fetch = some 0x3055 := ⟨rfl, rfl, rfl, rfl, rfl⟩
theorem witness_MaskedInterruptWaits_2 :
    { atBoundary 0x3055 ⟨[.intconFlags 0x04 0x00], false, false, false⟩ with intcon := 0x80 }.nextBoundary.irq = false ∧
      { atBoundary 0x3055 ⟨[.intconFlags 0x04 0x00], false, false, false⟩ with intcon := 0x80 }.afterUpdates.fetch =
        some 0x3055 := ⟨rfl, rfl⟩
theorem witness_SleepWaitsAndWakes : { oneWord 0x3055 with asleep := true }.nextBoundary = Boundary.quiet := rfl
theorem witness_SleepWaitsAndWakes_2 :
    { atBoundary 0x3055 ⟨[], true, false, false⟩ with asleep := true }.afterUpdates.fetch = some 0x3055 ∧
      { atBoundary 0x3055 ⟨[], true, false, false⟩ with asleep := true }.nextBoundary.irq = true := ⟨rfl, rfl⟩
theorem witness_SleepWaitsAndWakes_3 :
    { atBoundary 0x3055 ⟨[], false, true, false⟩ with asleep := true }.afterUpdates.fetch = some 0x3055 ∧
      { atBoundary 0x3055 ⟨[], false, true, false⟩ with asleep := true }.nextBoundary.wdt = true := ⟨rfl, rfl⟩
/-- A time-out and a request at one boundary (entry 32). -/
theorem witness_SleepWaitsAndWakes_4 :
    { atBoundary 0x3055 ⟨[], true, true, false⟩ with asleep := true }.nextBoundary.mclr = false ∧
      { atBoundary 0x3055 ⟨[], true, true, false⟩ with asleep := true }.afterUpdates.fetch = some 0x3055 ∧
      { atBoundary 0x3055 ⟨[], true, true, false⟩ with asleep := true }.nextBoundary.irq = true ∧
      { atBoundary 0x3055 ⟨[], true, true, false⟩ with asleep := true }.nextBoundary.wdt = true := ⟨rfl, rfl, rfl, rfl⟩
theorem witness_Resets : (atBoundary 0 ⟨[], true, true, false⟩).nextBoundary.mclr = false ∧
    (atBoundary 0 ⟨[], true, true, false⟩).nextBoundary.wdt = true ∧
    (atBoundary 0 ⟨[], true, true, false⟩).asleep = false := ⟨rfl, rfl, rfl⟩
theorem witness_Resets_2 : (atBoundary 0 ⟨[], false, false, true⟩).nextBoundary.mclr = true ∧
    (atBoundary 0 ⟨[], false, false, true⟩).asleep = false ∧
    { atBoundary 0 ⟨[], false, false, true⟩ with asleep := true }.nextBoundary.mclr = true := ⟨rfl, rfl, rfl⟩
/-- The external reset and a time-out at one boundary, awake and asleep (entry 32). -/
theorem witness_Resets_3 : (atBoundary 0 ⟨[], false, true, true⟩).nextBoundary.mclr = true ∧
    (atBoundary 0 ⟨[], false, true, true⟩).nextBoundary.wdt = true ∧
    (atBoundary 0 ⟨[], false, true, true⟩).asleep = false ∧
    { atBoundary 0 ⟨[], false, true, true⟩ with asleep := true }.nextBoundary.mclr = true := ⟨rfl, rfl, rfl, rfl⟩
/-- The invariant in a state with memory, program and a full stack; a state that steps from it. -/
theorem witness_StepKeepsInv :
    (withStack { oneWord 0x01A0 with ram := [(0x20, 0x5A), (0xFF, 0x01)] } [1, 2, 3, 4, 5, 6, 7, 8]).Inv ∧
      ∃ t, step (withStack { oneWord 0x01A0 with ram := [(0x20, 0x5A), (0xFF, 0x01)] } [1, 2, 3, 4, 5, 6, 7, 8]) =
        .next t := ⟨by constructor <;> decide, _, rfl⟩
theorem witness_ProgramNeverWritten : ∃ t, step (oneWord 0x00A0) = .next t := ⟨_, rfl⟩
theorem witness_ProgramIsNoData : (∃ t, exec (.call 0x7FF) strictStart = .next t) ∧
    exec .ret strictStart = .fault .stackUnderflow ∧ exec (.reserved 1) strictStart = .refused (.reservedOpcode 1) :=
  ⟨⟨_, rfl⟩, rfl, rfl⟩
theorem witness_ToPdWriters : ∃ t, exec (.movwf 0x03) { start 0xFF 0 0x18 with
    dev := { Config.defaultDevice with toPdWritable := false } } = .next t := ⟨_, rfl⟩
theorem witness_ToPdWriters_2 : (∃ t, exec (.movwf 0x20) (start 0xFF 0 0x18) = .next t) ∧
    storesTo (.movwf 0x20) = some 0x20 ∧ (start 0xFF 0 0x18).resolve 0x20 ≠ .status := ⟨⟨_, rfl⟩, rfl, by decide⟩
theorem witness_PclathAndGieWriters : (∃ t, exec (.call 0x7FF) strictStart = .next t) ∧
    storesTo (.call 0x7FF) = none := ⟨⟨_, rfl⟩, rfl⟩
theorem witness_CyclesAndThePc : (∃ t, exec .nop strictStart = .next t) ∧
    ∃ t, exec (.btfsc 0x20 7) strictStart = .next t := ⟨⟨_, rfl⟩, _, rfl⟩
theorem witness_EveryInstructionRuns : (Instr.tris 7).wellFormed = true ∧ Permissive State.reset.dev :=
  ⟨rfl, rfl, rfl, rfl, rfl, fun p => by cases p <;> decide⟩
theorem witness_EveryInstructionRuns_2 : (start 0 0 0x18).resolve 0x02 = .pcl ∧ (start 0 0 0x18).operand 0x02 = 1 ∧
    { start 0 0 0x18 with pc := 0x0101 }.operand 0x02 ≠ 1 := by decide
/-- Nothing left in the queue: a fixed point, asleep and at a `GOTO` to itself. -/
theorem witness_HaltedStays : State.Halted { State.reset with asleep := true } := ⟨nofun, .inl rfl⟩
theorem witness_HaltedStays_2 : State.Halted (oneWord 0x2900) ∧ (oneWord 0x2900).inputs = [] :=
  ⟨⟨nofun, .inr ⟨0x2900, 0x100, rfl, by decide, by decide⟩⟩, rfl⟩
/-- Over with boundaries left that only update the device, or do nothing. -/
theorem witness_HaltedStays_3 : State.Halted { oneWord 0x2900 with
    inputs := [⟨[.timer0 0xFF, .intconFlags 0x04 0x00], false, false, false⟩, Boundary.quiet] } :=
  ⟨by unfold State.NothingComes; decide, .inr ⟨0x2900, 0x100, rfl, by decide, by decide⟩⟩
theorem witness_HaltedStays_4 :
    State.Halted { State.reset with asleep := true, inputs := [Boundary.quiet, Boundary.quiet] } ∧
      { State.reset with asleep := true, inputs := [Boundary.quiet, Boundary.quiet] }.nextBoundary.events = [] :=
  ⟨⟨by unfold State.NothingComes; decide, .inl rfl⟩, rfl⟩

/-! ### Timing and the assembler's abbreviations -/

theorem test_cycles_pcl : cycles (.addwf 0x02 .file) State.reset = 2 := by decide
theorem test_cycles_skip : cycles (.btfsc 0x20 0) State.reset = 2 := by decide
theorem test_q_goto : qActivity (.goto 0) State.reset =
    some [#v[.decode, .readLiteralLow, .processData, .noOperation], qIdle] := by decide
theorem test_q_option : qActivity .option State.reset =
    some [#v[.decode, .notStated, .processData, .writeOption]] := by decide
theorem test_q_btfss_goes_on : qActivity (.btfss 0x20 0) State.reset =
    some [#v[.decode, .readRegister, .processData, .noOperation]] := by decide
theorem test_special_bz : expandSpecial (.branchIf .z 0x10) = [.btfsc 0x03 2, .goto 0x10] := by decide
theorem test_high : highByte 0x9375 = 0x93 := by decide

end Sys2Proof.Tests
end

section
/-! SUPPORT. What the proofs of the state family use: the decoder's well-formedness, what a file write does to STATUS
bit by bit, and that each operation on the state keeps the invariant. -/

namespace Sys2Proof

/-! ### Every decoded instruction is well-formed (R105, R107) -/

/-- No word of the list of R107 (a) is read as reserved. -/
theorem decodeLow_ne_reserved_of_listed : ∀ w ∈ lowInstrWords, decodeLow w ≠ .reserved w := by
  simp [lowInstrWords, decodeLow, fieldF]

theorem isTrisOperand_of_fieldF {w : InstrWord}
    (h : fieldF w = 0b1100101#7 ∨ fieldF w = 0b1100110#7 ∨ fieldF w = 0b1100111#7) :
    isTrisOperand (w.extractLsb' 0 3) = true := by
  have hf : (fieldF w).toNat = w.toNat % 128 := by simp [fieldF]
  have ht : (w.extractLsb' 0 3).toNat = w.toNat % 8 := by simp
  have h5 : 5 ≤ (w.extractLsb' 0 3).toNat := by
    rcases h with h | h | h <;> rw [h, BitVec.toNat_ofNat] at hf <;> omega
  exact decide_eq_true h5

/-- A word below 0x80 outside the list is reserved by R107 (a). -/
theorem isReservedWord_of_low {w : InstrWord} (hw : w.toNat < 0x80) (h : w ∉ lowInstrWords) :
    isReservedWord w = true := by
  simp [isReservedWord, hw, h]

/-- A word from 0x3B00 to 0x3BFF is reserved by R107 (b). -/
theorem isReservedWord_of_high {w : InstrWord} (h : (w.extractLsb' 8 6).toNat = 0x3B) :
    isReservedWord w = true := by
  have e : (w.extractLsb' 8 6).toNat = w.toNat / 2 ^ 8 % 2 ^ 6 := by
    rw [BitVec.extractLsb'_toNat, Nat.shiftRight_eq_div_pow]
  have hw := w.isLt
  have hlo : 0x3B00 ≤ w.toNat := by omega
  have hhi : w.toNat ≤ 0x3BFF := by omega
  simp [isReservedWord, hlo, hhi]

theorem decodeLow_wellFormed {w : InstrWord} (h : w.toNat < 0x100) : (decodeLow w).wellFormed = true := by
  have listed := decodeLow_ne_reserved_of_listed w
  unfold decodeLow at listed ⊢
  split_ifs at listed ⊢ with h7 _ _ _ _ _ _ htris
  any_goals rfl
  · exact isTrisOperand_of_fieldF htris
  · have hw : w.toNat < 0x80 := by
      have h7 : ¬ w.toNat.testBit 7 = true := h7
      rw [Nat.testBit_eq_decide_div_mod_eq, decide_eq_true_eq] at h7
      omega
    exact isReservedWord_of_low hw fun hm => listed hm rfl

theorem decodeByte_wellFormed {w : InstrWord} (h : (w.extractLsb' 12 2).toNat = 0) :
    (decodeByte w).wellFormed = true := by
  unfold decodeByte
  split
  case h_1 h8 =>
    rw [BitVec.extractLsb'_toNat, Nat.shiftRight_eq_div_pow] at h h8
    have hw := w.isLt
    exact decodeLow_wellFormed (by omega)
  case h_2 => split <;> rfl
  all_goals rfl

theorem decodeBit_wellFormed (w : InstrWord) : (decodeBit w).wellFormed = true := by
  unfold decodeBit
  split <;> rfl

theorem decodeJump_wellFormed (w : InstrWord) : (decodeJump w).wellFormed = true := by
  unfold decodeJump
  split <;> rfl

theorem decodeLiteral_wellFormed {w : InstrWord} (h : (w.extractLsb' 12 2).toNat = 3) :
    (decodeLiteral w).wellFormed = true := by
  unfold decodeLiteral
  split
  case h_12 h8 =>
    refine isReservedWord_of_high ?_
    rw [BitVec.extractLsb'_toNat, Nat.shiftRight_eq_div_pow] at h h8 ⊢
    omega
  all_goals rfl

/-- The decoder answers well-formed instructions only: a `TRIS` for port 5, 6 or 7, a `reserved` for a word of R107. -/
theorem decode_wellFormed (w : InstrWord) : (decode w).wellFormed = true := by
  unfold decode
  split
  case h_1 h => exact decodeByte_wellFormed h
  case h_2 => exact decodeBit_wellFormed w
  case h_3 => exact decodeJump_wellFormed w
  case h_4 h0 h1 h2 =>
    have hlt := (w.extractLsb' 12 2).isLt
    have ne0 : (w.extractLsb' 12 2).toNat ≠ 0 := h0
    have ne1 : (w.extractLsb' 12 2).toNat ≠ 1 := h1
    have ne2 : (w.extractLsb' 12 2).toNat ≠ 2 := h2
    exact decodeLiteral_wellFormed (by omega)

end Sys2Proof
end

section
/-! SUPPORT. STATUS bit by bit after a file write and after the flags (R70), the results that set Z by their value
(R34), and the returns from an empty stack (D4). -/

namespace Sys2Proof.Machine

/-! ### A result that goes to a destination -/

/-- An instruction that does not store to the register `r` writes another one, or none. -/
theorem writtenReg_ne_of_storesTo {i : Instr} {s : State} {f : FileField} {d : Dest} {r : FileReg}
    (hs : storesTo i = if d = .file then some f else none) (hr : r ≠ .indfSelf)
    (h : ∀ f, storesTo i = some f → s.resolve f ≠ r) : writtenReg (s.resolve f) d ≠ r := by
  cases d with
  | w => exact hr.symm
  | file => exact h f hs

/-! ### STATUS bit by bit -/

/-- Each bit of the data written to STATUS: TO and PD only where they are writable (R70 step 3, D10). -/
theorem getLsbD_statusData_status (s : State) (v : Byte) (j : Nat) :
    (s.statusData .status v).getLsbD j =
      if (j = 3 ∨ j = 4) ∧ s.dev.toPdWritable = false then s.status.getLsbD j else v.getLsbD j := by
  unfold State.statusData
  rw [if_pos rfl]
  cases s.dev.toPdWritable with
  | true => simp
  | false =>
    by_cases hj : j < 8
    · simp only [BitVec.getLsbD_append, BitVec.getLsbD_extractLsb', Bool.false_eq_true, ↓reduceIte]
      interval_cases j <;> simp
    · have hne : ¬ (j = 3 ∨ j = 4) := by omega
      simp only [hne, false_and, ↓reduceIte, Bool.false_eq_true]
      rw [BitVec.getLsbD_of_ge _ j (by omega), BitVec.getLsbD_of_ge v j (by omega)]

/-- Where TO and PD are writable, STATUS takes the data as it is. -/
theorem statusData_status_writable {s : State} (h : s.dev.toPdWritable = true) (v : Byte) :
    s.statusData .status v = v := by
  simp [State.statusData, h]

/-- Where TO and PD are not writable, STATUS takes the data under the mask 0xE7. -/
theorem statusData_status_kept {s : State} (h : s.dev.toPdWritable = false) (v : Byte) :
    s.statusData .status v = (v &&& 0xE7) ||| (s.status &&& 0x18) := by
  rw [show (0x18 : Byte) = ~~~0xE7 from rfl, masked_status]
  simp [State.statusData, h]

/-- Data that has TO and PD as in STATUS goes there as it is, whatever the mask. -/
theorem statusData_status_of_agrees {s : State} {v : Byte} (hPd : v.getLsbD 3 = s.status.getLsbD 3)
    (hTo : v.getLsbD 4 = s.status.getLsbD 4) : s.statusData .status v = v := by
  apply BitVec.eq_of_getLsbD_eq
  intro j _
  rw [getLsbD_statusData_status]
  split
  case isTrue h =>
    obtain ⟨rfl | rfl, -⟩ := h
    · exact hPd.symm
    · exact hTo.symm
  case isFalse => rfl

/-- TO and PD are as they were where the data does not go to STATUS or the device keeps them. -/
theorem getLsbD_statusData_keeps {s : State} {r : FileReg} {j : Nat} (v : Byte) (hj : j = 3 ∨ j = 4)
    (h : s.dev.toPdWritable = false ∨ r ≠ .status) : (s.statusData r v).getLsbD j = s.status.getLsbD j := by
  by_cases hr : r = .status
  · subst hr
    have hdev : s.dev.toPdWritable = false := h.resolve_right fun hne => hne rfl
    rw [getLsbD_statusData_status, if_pos ⟨hj, hdev⟩]
  · simp [State.statusData, hr]

/-- The flags leave every bit from PD up as in the data. -/
theorem StatusIs.getLsbD {after data : Byte} {c dc z : Option Bool} {j : Nat} (h : StatusIs after data c dc z)
    (hj : 3 ≤ j) : after.getLsbD j = data.getLsbD j := by
  by_cases h8 : j < 8
  · have hup := congrArg (fun x : BitVec 5 => x.getLsbD (j - 3)) h.upper
    simpa [show j - 3 < 5 by omega, show 3 + (j - 3) = j by omega] using hup
  · rw [BitVec.getLsbD_of_ge _ j (by omega), BitVec.getLsbD_of_ge _ j (by omega)]

/-! ### Results of CLRF and RLF -/

/-- A rotation to the left moves every bit one place up (R145). -/
theorem getLsbD_rotateLeft8_value (a : Byte) (c : Bool) {n : Nat} (h0 : n ≠ 0) (h8 : n < 8) :
    (rotateLeft8 a c).value.getLsbD n = a.getLsbD (n - 1) := by
  change (a.extractLsb' 0 7 ++ BitVec.ofBool c).getLsbD n = a.getLsbD (n - 1)
  rw [BitVec.getLsbD_append, if_neg (by omega), BitVec.getLsbD_extractLsb', decide_eq_true (by omega : n - 1 < 7),
    Bool.true_and, Nat.zero_add]

/-- Setting C alone leaves every other bit. -/
theorem getLsbD_apply_carry (c : Bool) (v : Byte) {n : Nat} (h : n ≠ 0) :
    ((FlagUpdate.carry c).apply v).getLsbD n = v.getLsbD n := by
  rw [getLsbD_apply]
  split
  · next h2 => subst h2; rfl
  · split
    · next h1 => subst h1; rfl
    · rfl

/-! ### Results that set Z by their value -/

/-- The operation sets Z exactly when its value is 0 (R34). -/
def Alu.SetsZero (out : Alu) : Prop := out.flags.z = some (decide (out.value = 0))

theorem resultZ_setsZero (r : Byte) : (resultZ r).SetsZero := rfl
theorem add8_setsZero (a b : Byte) : (add8 a b).SetsZero := rfl
theorem sub8_setsZero (a b : Byte) : (sub8 a b).SetsZero := rfl

/-- Z after the flags of such a result. -/
theorem Alu.SetsZero.flagZ {out : Alu} (h : out.SetsZero) (v : Byte) :
    (out.flags.apply v).getLsbD 2 = decide (out.value = 0) := by
  rw [(apply_statusIs out.flags v).z, h]
  rfl

/-- A literal instruction with such a result leaves W and Z in agreement. -/
theorem literalOp_flagZ {s t : State} {out : Alu} (hout : out.SetsZero) (h : s.literalOp out = .next t) :
    t.status.getLsbD 2 = decide (t.w = 0) := by
  injection h with h
  subst h
  exact hout.flagZ s.status

/-- With either destination Z is that of the value `d = 0` leaves in W, also where the value goes to STATUS. -/
theorem fileOp_flagZ {s t u : State} {f : FileField} {op : Byte → Alu} (hop : ∀ a, (op a).SetsZero)
    (ht : s.fileOp f .w op = .next t) (hu : s.fileOp f .file op = .next u) :
    t.status.getLsbD 2 = decide (t.w = 0) ∧ u.status.getLsbD 2 = decide (t.w = 0) := by
  obtain ⟨-, rfl⟩ := fileOp_next ht
  obtain ⟨-, rfl⟩ := fileOp_next hu
  exact ⟨(hop _).flagZ _, (hop _).flagZ _⟩

/-- The nine byte-oriented instructions that set Z by their result. -/
theorem exec_eq_fileOp_of_setsZero {mk : FileField → Dest → Instr}
    (h : mk ∈ ([.addwf, .andwf, .comf, .decf, .incf, .iorwf, .movf, .subwf, .xorwf] :
      List (FileField → Dest → Instr))) (s : State) :
    ∃ op : Byte → Alu, (∀ a, (op a).SetsZero) ∧ ∀ f d, exec (mk f d) s = s.fileOp f d op := by
  simp only [List.mem_cons, List.not_mem_nil, or_false] at h
  rcases h with rfl | rfl | rfl | rfl | rfl | rfl | rfl | rfl | rfl
  · exact ⟨_, fun a => add8_setsZero s.w a, exec_addwf s⟩
  · exact ⟨_, fun a => resultZ_setsZero (s.w &&& a), exec_andwf s⟩
  · exact ⟨_, fun a => resultZ_setsZero (~~~a), exec_comf s⟩
  · exact ⟨_, fun a => resultZ_setsZero (a - 1), exec_decf s⟩
  · exact ⟨_, fun a => resultZ_setsZero (a + 1), exec_incf s⟩
  · exact ⟨_, fun a => resultZ_setsZero (s.w ||| a), exec_iorwf s⟩
  · exact ⟨_, resultZ_setsZero, exec_movf s⟩
  · exact ⟨_, fun a => sub8_setsZero a s.w, exec_subwf s⟩
  · exact ⟨_, fun a => resultZ_setsZero (s.w ^^^ a), exec_xorwf s⟩

/-- The five literal instructions that set Z by their result. -/
theorem exec_eq_literalOp_of_setsZero {mk : Byte → Instr}
    (h : mk ∈ ([.addlw, .andlw, .iorlw, .sublw, .xorlw] : List (Byte → Instr))) (s : State) (k : Byte) :
    ∃ out : Alu, out.SetsZero ∧ exec (mk k) s = s.literalOp out := by
  simp only [List.mem_cons, List.not_mem_nil, or_false] at h
  rcases h with rfl | rfl | rfl | rfl | rfl
  · exact ⟨_, add8_setsZero s.w k, exec_addlw s k⟩
  · exact ⟨_, resultZ_setsZero (s.w &&& k), exec_andlw s k⟩
  · exact ⟨_, resultZ_setsZero (s.w ||| k), exec_iorlw s k⟩
  · exact ⟨_, sub8_setsZero k s.w, exec_sublw s k⟩
  · exact ⟨_, resultZ_setsZero (s.w ^^^ k), exec_xorlw s k⟩

/-! ### Returns from an empty stack -/

theorem returnFromCall_empty {s : State} (h : s.popStops = true) : s.returnFromCall = .fault .stackUnderflow :=
  pop_empty _ h

theorem returnFromInterrupt_empty {s : State} (h : s.popStops = true) :
    s.returnFromInterrupt = .fault .stackUnderflow :=
  pop_empty _ h


end Sys2Proof.Machine
end

section
/-! SUPPORT. Each operation of the machine keeps the invariant (R30, R61, R62, R65). -/

namespace Sys2Proof.Machine

/-! ### What the invariant speaks of -/

/-- The invariant speaks of the memories, the stack's size and the device alone. -/
theorem State.Inv.of_same {s t : State} (h : s.Inv) (ram : t.ram = s.ram) (program : t.program = s.program)
    (below : t.below = s.below) (held : t.held = s.held) (dev : t.dev = s.dev) : t.Inv where
  ram := ram ▸ h.ram
  ramHere := by rw [ram, dev]; exact h.ramHere
  program := program ▸ h.program
  slots := by rw [below, dev]; exact h.slots
  held := by rw [held, dev]; exact h.held

/-- Every general purpose byte of a device stands at a 9-bit address (R63). -/
theorem lt_of_deviceHasRam {dev : Device} {a : Nat} (h : deviceHasRam dev a = true) : a < 512 := by
  rw [deviceHasRam, Bool.and_eq_true, decide_eq_true_eq] at h
  exact h.1

/-! ### File writes -/

/-- A write to a general purpose byte the device has keeps the invariant. -/
theorem inv_write_ram {s : State} (h : s.Inv) {a : Nat} (v : Byte) (ha : deviceHasRam s.dev a = true) :
    (s.writeReg (.ram a) v).Inv where
  ram := write_wf v (lt_of_deviceHasRam ha) h.ram
  ramHere := by
    intro c hc
    rcases mem_write hc with hc | ⟨rfl, -⟩
    · exact h.ramHere c hc
    · exact ha
  program := h.program
  slots := h.slots
  held := h.held

/-- A file write to anything else leaves data memory alone. -/
theorem writeReg_ram_of_ne (s : State) (r : FileReg) (v : Byte) (h : ∀ a, r ≠ .ram a) :
    (s.writeReg r v).ram = s.ram := by
  cases r with
  | ram a => exact absurd rfl (h a)
  | port p => simp [State.writeReg]
  | tris p => simp [State.writeReg]
  | _ => rfl

/-- A file write keeps the invariant where it goes to no byte the device lacks. -/
theorem inv_writeReg {s : State} (h : s.Inv) (r : FileReg) (v : Byte)
    (hr : ∀ a, r = .ram a → deviceHasRam s.dev a = true) : (s.writeReg r v).Inv := by
  by_cases hram : ∃ a, r = .ram a
  · obtain ⟨a, rfl⟩ := hram
    exact inv_write_ram h v (hr a rfl)
  · exact h.of_same (writeReg_ram_of_ne s r v fun a e => hram ⟨a, e⟩) (by simp) (by simp) (by simp) (by simp)

/-- A result delivered to a destination keeps the invariant: an operand designates only bytes the device has. -/
theorem inv_writeDest {s : State} (h : s.Inv) (f : FileField) (d : Dest) (v : Byte) :
    (s.advance.writeDest (s.resolve f) d v).Inv := by
  have ha : s.advance.Inv := h.of_same rfl rfl rfl rfl rfl
  cases d with
  | w => exact ha.of_same rfl rfl rfl rfl rfl
  | file => exact inv_writeReg ha _ v fun _ e => locate_ram e

/-! ### The stack -/

/-- A push keeps the stack's slots and holds at most as many entries. -/
theorem inv_pushed {s : State} (h : s.Inv) (v : ProgAddr) : (s.pushed v).Inv where
  ram := h.ram
  ramHere := h.ramHere
  program := h.program
  slots := by
    have hs := h.slots
    rw [pushed_below, pushed_dev, List.length_take, List.length_cons]
    omega
  held := Nat.min_le_left _ _

/-- A pop keeps the stack's slots: the one it empties goes last. -/
theorem inv_popped {s : State} (h : s.Inv) : s.popped.Inv where
  ram := h.ram
  ramHere := h.ramHere
  program := h.program
  slots := by
    have hs := h.slots
    rw [popped_below, popped_dev, List.length_tail, List.length_append, List.length_singleton]
    omega
  held := (Nat.sub_le _ _).trans h.held

/-! ### Boundaries -/

/-- The updates of a boundary touch nothing the invariant speaks of. -/
theorem inv_afterUpdates {s : State} (h : s.Inv) : s.afterUpdates.Inv := by
  obtain ⟨-, -, -, -, below, held, -, -, -, ram, program, -, -, dev, -⟩ := afterUpdates_keeps s
  exact h.of_same ram program below held dev

/-- A reset gives the stack fresh slots and no entry (R47), and keeps the memories (R21). -/
theorem inv_warmReset {s : State} (h : s.Inv) (timeOut powerDown : Bool) : (s.warmReset timeOut powerDown).Inv where
  ram := h.ram
  ramHere := h.ramHere
  program := h.program
  slots := by
    have hs : s.below.length + 1 = s.dev.stackDepth := h.slots
    change ((List.range (s.dev.stackDepth - 1)).map _).length + 1 = s.dev.stackDepth
    rw [List.length_map, List.length_range]
    omega
  held := Nat.zero_le _

/-- Interrupt entry pushes the pc and changes INTCON and the pc. -/
theorem inv_takeInterrupt {s t : State} (h : s.Inv) (ht : s.takeInterrupt = .next t) : t.Inv := by
  obtain ⟨-, hk⟩ := push_next ht
  injection hk with hk
  subst hk
  exact (inv_pushed h s.pc).of_same rfl rfl rfl rfl rfl

/-! ### Instructions and steps -/

/-- Every instruction that answers a next state keeps the invariant. -/
theorem inv_exec {i : Instr} {s t : State} (h : s.Inv) (ht : exec i s = .next t) : t.Inv := by
  have ha : s.advance.Inv := h.of_same rfl rfl rfl rfl rfl
  cases exec_effect ht with
  | file f d v _ _ ht | skip f d v _ _ ht => subst ht; exact (inv_writeDest h f d v).of_same rfl rfl rfl rfl rfl
  | load _ _ ht | pc _ _ ht | clrwdt _ ht | sleep _ ht => subst ht; exact h.of_same rfl rfl rfl rfl rfl
  | call _ _ ht => subst ht; exact (inv_pushed h s.npc).of_same rfl rfl rfl rfl rfl
  | ret _ _ ht | retfie _ ht => subst ht; exact (inv_popped h).of_same rfl rfl rfl rfl rfl
  | option _ ht | tris _ _ _ _ ht => subst ht; exact inv_writeReg ha _ s.w nofun

/-- Every step that answers a next state keeps the invariant. -/
theorem inv_step {s t : State} (h : s.Inv) (ht : step s = .next t) : t.Inv := by
  have hu : s.afterUpdates.Inv := inv_afterUpdates h
  rcases step_cases ht with ⟨timeOut, powerDown, rfl⟩ | rfl | hint | ⟨u, w, hwoken, -, hexec⟩
  · exact inv_warmReset hu timeOut powerDown
  · exact hu
  · exact inv_takeInterrupt hu hint
  · have hinv : u.Inv := by
      rcases hwoken with rfl | rfl | rfl
      · exact hu.of_same rfl rfl rfl rfl rfl
      · exact hu.of_same rfl rfl rfl rfl rfl
      · exact hu
    exact inv_exec hinv hexec

end Sys2Proof.Machine
end

section
/-! SETTLED: the statements about the state (10_state.md). -/

namespace Sys2Proof.Proofs

open Sys2Proof.Machine

/-! ### The invariant -/

/-- Settles O52: each thing a step can do keeps the invariant, and an instruction writes data memory only where its
operand designates a byte the device has. -/
theorem stepKeepsInv : Obligations.StepKeepsInv := fun _ _ hinv hstep => inv_step hinv hstep

/-- Settles O51. -/
theorem resetInv : Obligations.ResetInv where
  ram := reset_ram_wf
  ramHere := nofun
  program := ⟨List.Pairwise.nil, nofun⟩
  slots := rfl
  held := Nat.zero_le _

/-- Settles O50. -/
theorem resetValues : Obligations.ResetValues := by
  have tris : ∀ p, (State.reset.port p).tris = 0xFF := by
    intro p
    cases p <;> rfl
  exact ⟨rfl, rfl, rfl, by decide, by decide, rfl, tris, rfl, rfl, rfl⟩

/-! ### Flags and STATUS -/

/-- Settles O18: each of the 16 computes a result that sets Z by its value, and the flags are set last. -/
theorem zeroFlag : Obligations.ZeroFlag := by
  refine ⟨?byte, ?literal, ?clear⟩
  case byte =>
    intro mk hmk s t u f ht hu
    obtain ⟨op, hop, hexec⟩ := exec_eq_fileOp_of_setsZero hmk s
    rw [hexec] at ht hu
    exact fileOp_flagZ hop ht hu
  case literal =>
    intro mk hmk s t k ht
    obtain ⟨out, hout, hexec⟩ := exec_eq_literalOp_of_setsZero hmk s k
    rw [hexec] at ht
    exact literalOp_flagZ hout ht
  case clear =>
    rintro s t (ht | ⟨f, ht⟩)
    · rw [exec_clrw] at ht
      injection ht with ht
      subst ht
      exact (resultZ_setsZero 0x00).flagZ _
    · rw [exec_clrf] at ht
      obtain ⟨-, rfl⟩ := fileStore_next ht
      exact (resultZ_setsZero 0x00).flagZ _

/-- Settles O40: each bit of STATUS is the flag the instruction sets, else TO and PD of the source where they are not
writable, else the written data. -/
theorem statusAsDestination : Obligations.StatusAsDestination := by
  intro s f hf
  have allows : s.Allows f := by rw [State.Allows, hf]; rfl
  have operand : s.operand f = s.status := by rw [State.operand, hf]; rfl
  have written : ∀ v, (s.advance.writeReg (s.resolve f) v).status = s.statusData .status v := by
    intro v
    rw [hf]
    exact writeReg_status s.advance .status v
  refine ⟨⟨_, fileStore_allowed _ allows, ?clrf⟩, ⟨_, fileStore_allowed _ allows, ?movwf⟩,
    ⟨_, bitOp_allowed 0 true allows, ?bsf⟩, ⟨_, (exec_rlf s f .file).trans (fileOp_allowed .file _ allows), ?rlf⟩⟩
  case clrf =>
    change (s.advance.writeReg (s.resolve f) 0x00).status ||| 0x04 = _
    rw [written]
    cases hdev : s.dev.toPdWritable with
    | true => rw [statusData_status_writable hdev]; rfl
    | false => rw [statusData_status_kept hdev]; simp
  case movwf =>
    change (s.advance.writeReg (s.resolve f) s.w).status = _
    rw [written]
    cases hdev : s.dev.toPdWritable with
    | true => exact statusData_status_writable hdev s.w
    | false => exact statusData_status_kept hdev s.w
  case bsf =>
    rw [written, operand]
    exact statusData_status_of_agrees (getLsbD_setBit _ 0 3 true (by decide)) (getLsbD_setBit _ 0 4 true (by decide))
  case rlf =>
    rw [operand]
    refine ⟨(apply_statusIs _ _).c, fun n hn h8 h0 => ?_⟩
    have outside : ¬ ((n = 3 ∨ n = 4) ∧ s.dev.toPdWritable = false) := fun h => by omega
    calc ((FlagUpdate.carry (s.status.getLsbD 7)).apply
            (s.advance.writeReg (s.resolve f) (rotateLeft8 s.status s.flagC).value).status).getLsbD n
        = (s.statusData .status (rotateLeft8 s.status s.flagC).value).getLsbD n := by
          rw [getLsbD_apply_carry _ _ h0, written]
      _ = (rotateLeft8 s.status s.flagC).value.getLsbD n := by
          rw [getLsbD_statusData_status, if_neg outside]
      _ = s.status.getLsbD (n - 1) := getLsbD_rotateLeft8_value _ _ h0 h8

/-- Settles O55: every effect but those of `CLRWDT` and `SLEEP` leaves STATUS<4:3> as in the data of a store, and that
data as in STATUS. -/
theorem toPdWriters : Obligations.ToPdWriters := by
  intro i s t hexec hclrwdt hsleep hkeeps
  have delivered_keeps : ∀ {f d v c dc z}, storesTo i = (if d = .file then some f else none) →
      Delivered s t f d v c dc z → t.flagTO = s.flagTO ∧ t.flagPD = s.flagPD := by
    intro f d v c dc z hs hd
    have hwritten : s.dev.toPdWritable = false ∨ writtenReg (s.resolve f) d ≠ .status :=
      hkeeps.imp_right fun h => writtenReg_ne_of_storesTo hs nofun h
    have bit : ∀ j, j = 3 ∨ j = 4 → t.status.getLsbD j = s.status.getLsbD j := fun j hj =>
      (hd.status.getLsbD (by omega)).trans (getLsbD_statusData_keeps v hj hwritten)
    exact ⟨bit 4 (.inr rfl), bit 3 (.inl rfl)⟩
  cases exec_effect hexec with
  | file f d v u hs ht => subst ht; exact delivered_keeps hs (delivered s f d v u).1
  | skip f d v hs hp ht => subst ht; exact delivered_keeps hs ((delivered_plain s f d v).1.skip hp)
  | load out hs ht =>
    subst ht
    have hst := (loaded s out).status
    exact ⟨hst.getLsbD (by decide : 3 ≤ 4), hst.getLsbD (by decide : 3 ≤ 3)⟩
  | pc _ _ ht | call _ _ ht | ret _ _ ht | retfie _ ht | option _ ht => subst ht; exact ⟨rfl, rfl⟩
  | clrwdt hi _ => exact absurd hi hclrwdt
  | sleep hi _ => exact absurd hi hsleep
  | tris p q hi hq ht => subst ht; cases q <;> exact ⟨rfl, rfl⟩

/-- Settles O56: a delivered result changes only the register it is written to, and no other effect but `RETFIE`'s on
GIE reaches PCLATH or INTCON. -/
theorem pclathAndGieWriters : Obligations.PclathAndGieWriters := by
  intro i s t hexec
  have delivered_keeps : ∀ {f d v c dc z}, storesTo i = (if d = .file then some f else none) →
      Delivered s t f d v c dc z →
      ((∀ f, storesTo i = some f → s.resolve f ≠ .pclath) → t.pclath = s.pclath) ∧
        ((∀ f, storesTo i = some f → s.resolve f ≠ .intcon) → i ≠ .retfie → t.gie = s.gie) := by
    intro f d v c dc z hs hd
    refine ⟨fun h => hd.files.pclath (writtenReg_ne_of_storesTo hs nofun h), fun h _ => ?_⟩
    rw [State.gie, hd.files.intcon (writtenReg_ne_of_storesTo hs nofun h)]
    rfl
  cases exec_effect hexec with
  | file f d v u hs ht => subst ht; exact delivered_keeps hs (delivered s f d v u).1
  | skip f d v hs hp ht => subst ht; exact delivered_keeps hs ((delivered_plain s f d v).1.skip hp)
  | load _ _ ht | pc _ _ ht | call _ _ ht | ret _ _ ht | clrwdt _ ht | sleep _ ht | option _ ht =>
    subst ht
    exact ⟨fun _ => rfl, fun _ _ => rfl⟩
  | retfie hi ht => subst ht; exact ⟨fun _ => rfl, fun _ hne => absurd hi hne⟩
  | tris p q hi hq ht => subst ht; cases q <;> exact ⟨fun _ => rfl, fun _ _ => rfl⟩

/-! ### The return stack -/

/-- Settles O29: every effect but those of `CALL` and the returns leaves the three fields of the stack alone. -/
theorem onlyCallsAndReturnsUseTheStack : Obligations.OnlyCallsAndReturnsUseTheStack := by
  intro i s t hexec hcall hretlw hret hretfie
  have delivered_keeps : ∀ {f d v c dc z}, Delivered s t f d v c dc z →
      t.tos = s.tos ∧ t.below = s.below ∧ t.held = s.held := fun hd => ⟨hd.rest.tos, hd.rest.below, hd.rest.held⟩
  cases exec_effect hexec with
  | file f d v u hs ht => subst ht; exact delivered_keeps (delivered s f d v u).1
  | skip f d v hs hp ht => subst ht; exact delivered_keeps ((delivered_plain s f d v).1.skip hp)
  | load _ _ ht | pc _ _ ht | clrwdt _ ht | sleep _ ht | option _ ht => subst ht; exact ⟨rfl, rfl, rfl⟩
  | call k hi ht => exact absurd hi (hcall k)
  | ret k hi ht =>
    rcases hi with hi | ⟨k', hi⟩
    · exact absurd hi hret
    · exact absurd hi (hretlw k')
  | retfie hi ht => exact absurd hi hretfie
  | tris p q hi hq ht => subst ht; cases q <;> exact ⟨rfl, rfl, rfl⟩

/-- Settles O28. -/
theorem stackStops : Obligations.StackStops := by
  refine fun s => ⟨fun hpolicy hfull => ?_, fun hpolicy hempty => ?_⟩
  · have stops : s.pushStops = true := by simp [State.pushStops, hpolicy, hfull]
    refine ⟨fun k => ?_, push_full _ _ stops⟩
    rw [exec_call]
    exact push_full _ _ stops
  · have stops : s.popStops = true := by simp [State.popStops, hpolicy, hempty]
    exact ⟨returnFromCall_empty stops, returnFromInterrupt_empty stops,
      fun k => returnFromCall_empty (s := { s with w := k }) stops⟩

/-! ### The step -/

/-- Settles O6. -/
theorem stepRunsDecoded : Obligations.StepRunsDecoded := by
  intro s w hquiet hfetch
  refine ⟨decode_wellFormed w, ?_⟩
  rw [step_quiet hquiet, hfetch]
  rfl

/-- Settles O7: `withFetchWord` puts a quiet boundary first and the word where the next step fetches. -/
theorem placedWordRuns : Obligations.PlacedWordRuns := by
  intro s n w
  have quiet : (s.withFetchWord n w).Quiet := ⟨rfl, rfl⟩
  have fetch : (s.withFetchWord n w).fetch = some (BitVec.ofNat 14 (w % 2 ^ n)) := by
    have implemented : s.pc.toNat < max s.dev.progWords (s.pc.toNat + 1) := by omega
    exact (if_pos implemented).trans (program_read_place_same _ _ _)
  rw [step_quiet quiet, fetch]
  rfl

/-- Settles O8. -/
theorem fetchStops : Obligations.FetchStops := by
  intro s hquiet hno
  have fetch : s.fetch = none := by
    unfold State.fetch
    rcases hno with hbeyond | hread
    · exact if_neg (Nat.not_lt.2 hbeyond)
    · rw [hread, ite_self]
  rw [step_quiet hquiet, fetch]

end Sys2Proof.Proofs
end

section
/-! SUPPORT. The data address of an operand as a number (R63, R64) and the register map of R65 case by case: the
registers common to all banks, the first mirror that covers an address, and what stands at an address outside both. -/

namespace Sys2Proof.Machine

/-! ### The data address of an operand -/

/-- The upper part of a concatenation counts in steps of the lower part's range. -/
theorem toNat_append_eq_mul_add {m n : Nat} (x : BitVec m) (y : BitVec n) :
    (x ++ y).toNat = x.toNat * 2 ^ n + y.toNat := by
  rw [BitVec.toNat_append, ← Nat.shiftLeft_add_eq_or_of_lt y.isLt, Nat.shiftLeft_eq]

theorem directAddr_toNat (s : State) (f : FileField) :
    (s.directAddr f).toNat = 256 * s.rp1.toNat + 128 * s.rp0.toNat + f.toNat := by
  rw [State.directAddr, toNat_append_eq_mul_add, toNat_append_eq_mul_add, BitVec.toNat_ofBool, BitVec.toNat_ofBool]
  omega

theorem indirectAddr_toNat (s : State) : s.indirectAddr.toNat = 256 * s.irp.toNat + s.fsr.toNat := by
  rw [State.indirectAddr, toNat_append_eq_mul_add, BitVec.toNat_ofBool]
  omega

theorem operandAddr_indf (s : State) : s.operandAddr 0 = s.indirectAddr := rfl

theorem operandAddr_direct (s : State) {f : FileField} (h : f ≠ 0) : s.operandAddr f = s.directAddr f :=
  if_neg fun h0 => h (BitVec.eq_of_toNat_eq h0)

/-! ### Mirrors -/

/-- The offsets of the registers common to all banks (R65 (b)). -/
theorem isCommon_iff (a : DataAddr) :
    isCommon a = true ↔ a.toNat % 128 ∈ [0x00, 0x02, 0x03, 0x04, 0x0A, 0x0B] := by
  unfold isCommon
  rw [List.contains_iff_mem]

theorem mirrorCovers_iff (m : Mirror) (a : Nat) :
    mirrorCovers m a = true ↔ m.base ≤ a ∧ a < m.base + m.size := by
  rw [mirrorCovers, Bool.and_eq_true, decide_eq_true_eq, decide_eq_true_eq]

theorem mirrorCovers_eq_false {m : Mirror} {a : Nat} (h : a < m.base ∨ m.base + m.size ≤ a) :
    mirrorCovers m a = false := by
  rw [← Bool.not_eq_true, mirrorCovers_iff]
  omega

/-- Mirrors that all miss the address translate it nowhere. -/
theorem find_mirror_none {ms : List Mirror} {a : Nat} (h : ∀ m ∈ ms, a < m.base ∨ m.base + m.size ≤ a) :
    ms.find? (fun m => mirrorCovers m a) = none :=
  List.find?_eq_none.2 fun m hm => by rw [mirrorCovers_eq_false (h m hm)]; decide

theorem deviceMirror_uncovered {dev : Device} {a : DataAddr}
    (h : ∀ m ∈ dev.mirrors, a.toNat < m.base ∨ m.base + m.size ≤ a.toNat) : deviceMirror dev a = a := by
  unfold deviceMirror
  rw [find_mirror_none h]

/-- The first mirror that covers the address gives its other name. -/
theorem deviceMirror_covered {dev : Device} {a : DataAddr} {before after : List Mirror} {m : Mirror}
    (hdev : dev.mirrors = before ++ m :: after)
    (hbefore : ∀ n ∈ before, a.toNat < n.base ∨ n.base + n.size ≤ a.toNat)
    (hm : m.base ≤ a.toNat ∧ a.toNat < m.base + m.size) :
    deviceMirror dev a = BitVec.ofNat 9 (m.target + (a.toNat - m.base)) := by
  have hfind : dev.mirrors.find? (fun m => mirrorCovers m a.toNat) = some m := by
    rw [hdev, List.find?_append, find_mirror_none hbefore, Option.none_or]
    exact List.find?_cons_of_pos ((mirrorCovers_iff m _).2 hm)
  unfold deviceMirror
  rw [hfind]

/-! ### The map -/

/-- A register common to all banks stands for itself, whatever the mirrors. -/
theorem locate_common (dev : Device) {a : DataAddr}
    (h : a.toNat % 128 ∈ [0x00, 0x02, 0x03, 0x04, 0x0A, 0x0B]) : locate dev a = locateAt dev a := by
  rw [locate, canon, if_pos ((isCommon_iff a).2 h)]

theorem locate_not_common (dev : Device) {a : DataAddr}
    (h : a.toNat % 128 ∉ [0x00, 0x02, 0x03, 0x04, 0x0A, 0x0B]) :
    locate dev a = locateAt dev (deviceMirror dev a) := by
  rw [locate, canon, if_neg (mt (isCommon_iff a).1 h)]

/-- Without mirrors every address stands for itself. -/
theorem locate_without_mirrors (dev : Device) (a : DataAddr) :
    locate { dev with mirrors := [] } a = locateAt dev a := by
  unfold locate canon
  rw [deviceMirror_uncovered (by simp), ite_self]
  rfl

/-- The six registers common to all banks, by their offset in each (D6). -/
theorem locate_common_registers (dev : Device) (a : DataAddr) :
    (a.toNat % 128 = 0x00 → locate dev a = .indfSelf) ∧ (a.toNat % 128 = 0x02 → locate dev a = .pcl) ∧
      (a.toNat % 128 = 0x03 → locate dev a = .status) ∧ (a.toNat % 128 = 0x04 → locate dev a = .fsr) ∧
      (a.toNat % 128 = 0x0A → locate dev a = .pclath) ∧ (a.toNat % 128 = 0x0B → locate dev a = .intcon) := by
  refine ⟨?_, ?_, ?_, ?_, ?_, ?_⟩ <;> intro h <;> rw [locate_common dev (by simp [h])] <;> simp [locateAt, h]

theorem locateAt_banked (dev : Device) {a : DataAddr}
    (h : a.toNat % 128 ∉ [0x00, 0x02, 0x03, 0x04, 0x0A, 0x0B]) : locateAt dev a = locateBanked dev a.toNat := by
  simp only [List.mem_cons, List.not_mem_nil, or_false, not_or] at h
  obtain ⟨hindf, hpcl, hstatus, hfsr, hpclath, hintcon⟩ := h
  simp only [locateAt, hindf, hpcl, hstatus, hfsr, hpclath, hintcon, ↓reduceIte]

theorem portReg_eq (dev : Device) (p : PortId) (r : FileReg) (a : Nat) :
    portReg dev p r a = if p ∈ dev.ports then r else .unimplemented a := by
  simp [portReg]

/-- The ports at their addresses (D6), where the device has them. -/
theorem locateBanked_port (dev : Device) {p : PortId} {a : DataAddr}
    (h : (p, a) ∈ [(PortId.a, 0x005#9), (.b, 0x006#9), (.c, 0x007#9)]) :
    locateBanked dev a.toNat = if p ∈ dev.ports then .port p else .unimplemented a.toNat := by
  simp only [List.mem_cons, List.not_mem_nil, or_false, Prod.mk.injEq] at h
  rcases h with ⟨rfl, rfl⟩ | ⟨rfl, rfl⟩ | ⟨rfl, rfl⟩ <;> exact portReg_eq dev _ _ _

/-- The TRIS registers at theirs. -/
theorem locateBanked_tris (dev : Device) {p : PortId} {a : DataAddr}
    (h : (p, a) ∈ [(PortId.a, 0x085#9), (.b, 0x086#9), (.c, 0x087#9)]) :
    locateBanked dev a.toNat = if p ∈ dev.ports then .tris p else .unimplemented a.toNat := by
  simp only [List.mem_cons, List.not_mem_nil, or_false, Prod.mk.injEq] at h
  rcases h with ⟨rfl, rfl⟩ | ⟨rfl, rfl⟩ | ⟨rfl, rfl⟩ <;> exact portReg_eq dev _ _ _

theorem deviceHasRam_iff (dev : Device) (a : DataAddr) :
    deviceHasRam dev a.toNat = true ↔ ∃ r ∈ dev.ram, r.base ≤ a.toNat ∧ a.toNat < r.base + r.size := by
  simp [deviceHasRam, rangeCovers, a.isLt]

/-- An address of no special function register holds a general purpose byte, or nothing. -/
theorem locateBanked_general (dev : Device) {a : DataAddr}
    (h : a ∉ [0x001#9, 0x005#9, 0x006#9, 0x007#9, 0x081#9, 0x085#9, 0x086#9, 0x087#9]) :
    locateBanked dev a.toNat = if deviceHasRam dev a.toNat then .ram a.toNat else .unimplemented a.toNat := by
  simp only [List.mem_cons, List.not_mem_nil, or_false, not_or, BitVec.toNat_eq, BitVec.toNat_ofNat, Nat.reducePow,
    Nat.reduceMod] at h
  obtain ⟨htmr0, hportA, hportB, hportC, hoption, htrisA, htrisB, htrisC⟩ := h
  simp only [locateBanked, htmr0, hportA, hportB, hportC, hoption, htrisA, htrisB, htrisC, ↓reduceIte]

/-- An INDF access whose FSR points at an INDF offset designates INDF itself (R65 (d)). -/
theorem resolve_indfSelf {s : State} (h : s.fsr.toNat % 128 = 0) : s.resolve 0 = .indfSelf := by
  have haddr : (s.operandAddr 0).toNat % 128 = 0 := by
    rw [operandAddr_indf, indirectAddr_toNat]
    omega
  exact (locate_common_registers s.dev (s.operandAddr 0)).1 haddr

end Sys2Proof.Machine
end

section
/-! SUPPORT. What an operand does to an instruction, said once: the stop of an operand the device does not allow (R65),
what every storing instruction delivers (R130), and the frame of each kind of instruction (R73). -/

namespace Sys2Proof.Machine

/-! ### The access of an instruction with an operand -/

/-- An instruction that names an operand starts with the access to it, and stops there where the device does not allow
it (R65 (c)). -/
theorem exec_not_allowed {i : Instr} {s : State} {f : FileField} (hi : operandField i = some f) (h : ¬ s.Allows f) :
    exec i s = .fault (.unimplementedAddress (s.resolve f).address) := by
  cases i <;> cases hi <;> exact if_neg h

/-- What the device does not allow is an unimplemented address. -/
theorem resolve_of_not_allowed {s : State} {f : FileField} (h : ¬ s.Allows f) :
    ∃ a, s.resolve f = .unimplemented a := by
  unfold State.Allows at h
  cases hr : s.resolve f with
  | unimplemented a => exact ⟨a, rfl⟩
  | _ => exact absurd (by rw [hr]; rfl) h

/-- A device can only refuse what is unimplemented. -/
theorem allows_of_resolve {s : State} {f : FileField} (h : ∀ a, s.resolve f ≠ .unimplemented a) : s.Allows f := by
  by_contra hn
  obtain ⟨a, ha⟩ := resolve_of_not_allowed hn
  exact h a ha

/-- A byte-oriented instruction has one of the two shapes with a destination, whatever its operand and `d`. -/
theorem exec_eq_fileOp_or_fileSkipOp {mk : FileField → Dest → Instr} (h : mk ∈ byteInstrs) (s : State) :
    (∃ op : Byte → Alu, ∀ f d, exec (mk f d) s = s.fileOp f d op) ∨
      ∃ op : Byte → Byte, ∀ f d, exec (mk f d) s = s.fileSkipOp f d op := by
  simp only [byteInstrs, List.mem_cons, List.not_mem_nil, or_false] at h
  rcases h with rfl | rfl | rfl | rfl | rfl | rfl | rfl | rfl | rfl | rfl | rfl | rfl | rfl | rfl
  · exact .inl ⟨_, exec_addwf s⟩
  · exact .inl ⟨_, exec_andwf s⟩
  · exact .inl ⟨_, exec_comf s⟩
  · exact .inl ⟨_, exec_decf s⟩
  · exact .inr ⟨_, exec_decfsz s⟩
  · exact .inl ⟨_, exec_incf s⟩
  · exact .inr ⟨_, exec_incfsz s⟩
  · exact .inl ⟨_, exec_iorwf s⟩
  · exact .inl ⟨_, exec_movf s⟩
  · exact .inl ⟨_, exec_rlf s⟩
  · exact .inl ⟨_, exec_rrf s⟩
  · exact .inl ⟨_, exec_subwf s⟩
  · exact .inl ⟨_, exec_swapf s⟩
  · exact .inl ⟨_, exec_xorwf s⟩

/-! ### Storing instructions -/

/-- An instruction that stores to `f` and answers a next state delivered a value there. -/
theorem exec_delivers {i : Instr} {s t : State} {f : FileField} (hs : storesTo i = some f) (h : exec i s = .next t) :
    ∃ v c dc z, Delivered s t f .file v c dc z := by
  cases exec_effect h with
  | file g d v u hg ht =>
    subst ht
    cases d with
    | w => cases hg.symm.trans hs
    | file => cases hg.symm.trans hs; exact ⟨v, _, _, _, (delivered s f .file v u).1⟩
  | skip g d v hg hp ht =>
    subst ht
    cases d with
    | w => cases hg.symm.trans hs
    | file => cases hg.symm.trans hs; exact ⟨v, _, _, _, (delivered_plain s f .file v).1.skip hp⟩
  | load _ hn _ | pc _ hn _ => cases hn.symm.trans hs
  | ret _ hi _ => rcases hi with rfl | ⟨_, rfl⟩ <;> cases hs
  | call _ hi _ | retfie hi _ | clrwdt hi _ | sleep hi _ | option hi _ | tris _ _ hi _ _ => subst hi; cases hs

/-- The frame of a storing instruction (R73). -/
theorem files_of_storesTo {i : Instr} {s t : State} {f : FileField} (hs : storesTo i = some f)
    (h : exec i s = .next t) : FilesSameExcept (s.resolve f) s t := by
  obtain ⟨v, c, dc, z, hd⟩ := exec_delivers hs h
  exact hd.files

/-- A store to PCL takes two cycles (R239). -/
theorem cycles_of_storesTo_pcl {i : Instr} {s : State} {f : FileField} (hs : storesTo i = some f)
    (hf : s.resolve f = .pcl) : cycles i s = 2 := by
  have hop : s.fileOpCycles f .file = 2 := by simp [State.fileOpCycles, State.namesPcl, hf]
  have hskip : ∀ op, s.fileSkipCycles f .file op = 2 := fun op => by rw [State.fileSkipCycles, hop, ite_self]
  cases i with
  | decfsz g d => cases d <;> cases hs; exact hskip fun a => a - 1
  | incfsz g d => cases d <;> cases hs; exact hskip fun a => a + 1
  | clrf g | movwf g | bcf g b | bsf g b => cases hs; exact hop
  | addwf g d | andwf g d | comf g d | decf g d | incf g d | iorwf g d | movf g d | rlf g d | rrf g d | subwf g d
  | swapf g d | xorwf g d => cases d <;> cases hs; exact hop
  | _ => cases hs

/-! ### The frames of the other instructions -/

/-- The frame from the file registers one by one, for a register other than TMR0. -/
theorem FilesSameExcept.of_eq {r : FileReg} {s t : State} (hr : r ≠ .tmr0) (tmr0 : t.tmr0 = s.tmr0)
    (psc : t.psc = s.psc) (bankBits : t.status.extractLsb' 5 3 = s.status.extractLsb' 5 3) (fsr : t.fsr = s.fsr)
    (pclath : t.pclath = s.pclath) (intcon : r ≠ .intcon → t.intcon = s.intcon)
    (optionReg : t.optionReg = s.optionReg) (port : t.port = s.port) (ram : t.ram = s.ram) :
    FilesSameExcept r s t where
  tmr0 := fun _ => tmr0
  psc := by rw [if_neg hr, psc]
  bankBits := fun _ => bankBits
  fsr := fun _ => fsr
  pclath := fun _ => pclath
  intcon := intcon
  optionReg := fun _ => optionReg
  latch := fun p _ => by rw [port]
  tris := fun p _ => by rw [port]
  level := fun p => by rw [port]
  load := fun p => by rw [port]
  analog := fun p => by rw [port]
  ram := fun a _ => by rw [ram]

/-- Advancing the pc first makes no difference to what a file write leaves alone. -/
theorem advance_writeReg_files (s : State) (r : FileReg) (v : Byte) :
    FilesSameExcept r s (s.advance.writeReg r v) := by
  have files := writeReg_files s.advance r v
  exact
    { tmr0 := files.tmr0, psc := files.psc, bankBits := files.bankBits, fsr := files.fsr, pclath := files.pclath,
      intcon := files.intcon, optionReg := files.optionReg, latch := files.latch, tris := files.tris,
      level := files.level, load := files.load, analog := files.analog, ram := files.ram }

/-- TO and PD are not among the bank bits. -/
theorem setToPd_bankBits (s : State) (timeOut powerDown : Bool) :
    (s.setToPd timeOut powerDown).status.extractLsb' 5 3 = s.status.extractLsb' 5 3 := by
  apply BitVec.eq_of_getLsbD_eq
  intro n hn
  have hTo : ¬ 5 + n = 4 := by omega
  have hPd : ¬ 5 + n = 3 := by omega
  rw [BitVec.getLsbD_extractLsb', BitVec.getLsbD_extractLsb', State.setToPd, getLsbD_setBit _ _ _ _ (by decide),
    if_neg hPd, getLsbD_setBit _ _ _ _ (by decide), if_neg hTo]

/-- The frame of an instruction that stores to no file register and writes none by itself. -/
theorem files_of_storesTo_none {i : Instr} {s t : State} (hs : storesTo i = none) (h : exec i s = .next t)
    (hretfie : i ≠ .retfie) (hoption : i ≠ .option) (htris : ∀ p, i ≠ .tris p) (hclrwdt : i ≠ .clrwdt)
    (hsleep : i ≠ .sleep) : FilesSame s t := by
  cases exec_effect h with
  | file g d v u hg ht =>
    subst ht
    cases d with
    | w => exact (delivered s g .w v u).1.files
    | file => cases hg.symm.trans hs
  | skip g d v hg hp ht =>
    subst ht
    cases d with
    | w => exact ((delivered_plain s g .w v).1.skip hp).files
    | file => cases hg.symm.trans hs
  | load out _ ht => subst ht; exact (loaded s out).files
  | pc _ _ ht | call _ _ ht | ret _ _ ht =>
    subst ht
    exact .of_eq nofun rfl rfl rfl rfl rfl (fun _ => rfl) rfl rfl rfl
  | retfie hi _ => exact absurd hi hretfie
  | option hi _ => exact absurd hi hoption
  | tris p _ hi _ _ => exact absurd hi (htris p)
  | clrwdt hi _ => exact absurd hi hclrwdt
  | sleep hi _ => exact absurd hi hsleep

/-- `RETFIE` writes GIE (R178). -/
theorem files_of_retfie {s t : State} (h : exec .retfie s = .next t) : FilesSameExcept .intcon s t := by
  obtain ⟨-, hk⟩ := pop_next ((exec_retfie s).symm.trans h)
  injection hk with hk
  subst hk
  exact .of_eq nofun rfl rfl rfl rfl rfl (fun hne => absurd rfl hne) rfl rfl rfl

/-- `OPTION` writes OPTION_REG, as a file write would (R190). -/
theorem files_of_option {s t : State} (h : exec .option s = .next t) : FilesSameExcept .optionReg s t := by
  rw [exec_option, execOption] at h
  split at h
  · injection h with h
    subst h
    exact advance_writeReg_files s .optionReg s.w
  · cases h

/-- `TRIS` writes the TRIS of its port (R191). -/
theorem files_of_tris {s t : State} {n : BitVec 3} {p : PortId} (hp : trisPort n = some p)
    (h : exec (.tris n) s = .next t) : FilesSameExcept (.tris p) s t := by
  simp only [exec_tris, execTris, hp] at h
  split at h
  · injection h with h
    subst h
    exact advance_writeReg_files s (.tris p) s.w
  · cases h

/-- `CLRWDT` and `SLEEP` write the prescaler count and no file register (R174, R181). -/
theorem files_of_clears {i : Instr} {s t : State} (hi : i = .clrwdt ∨ i = .sleep) (h : exec i s = .next t) :
    FilesSame s { t with psc := s.psc } := by
  rcases hi with rfl | rfl <;> cases h <;>
    exact .of_eq nofun rfl rfl (setToPd_bankBits _ _ _) rfl rfl (fun _ => rfl) rfl rfl rfl

end Sys2Proof.Machine
end

section
/-! SUPPORT. PCL, a port and a byte of memory as operands: what a store to PCL does to the pc (R69), what the pins of a
port read (R72), and that a stored byte is read back (R80). -/

namespace Sys2Proof.Machine

/-! ### PCL -/

/-- A value delivered to PCL goes below PCLATH, which keeps its value (R69). -/
theorem Delivered.pc_of_pcl {s t : State} {f : FileField} {v : Byte} {c dc z : Option Bool}
    (h : Delivered s t f .file v c dc z) (hf : s.resolve f = .pcl) : t.pc = s.pclath ++ v ∧ t.pclath = s.pclath := by
  have hpclath : t.pclath = s.pclath := h.files.pclath (by rw [writtenReg, if_pos rfl, hf]; nofun)
  have hholds : t.Holds (s.resolve f) v := h.toFile rfl
  rw [hf] at hholds
  exact ⟨hpclath ▸ hholds, hpclath⟩

/-- With `d = 1` a byte-oriented instruction delivers the value that `d = 0` leaves in W (R130). -/
theorem byteInstr_delivers_value_of_w {mk : FileField → Dest → Instr} (hmk : mk ∈ byteInstrs) {s t u : State}
    {f : FileField} (ht : exec (mk f .w) s = .next t) (hu : exec (mk f .file) s = .next u) :
    ∃ c dc z, Delivered s u f .file t.w c dc z := by
  rcases exec_eq_fileOp_or_fileSkipOp hmk s with ⟨op, hexec⟩ | ⟨op, hexec⟩ <;> rw [hexec] at ht hu
  case inl =>
    obtain ⟨-, rfl⟩ := fileOp_next ht
    obtain ⟨-, rfl⟩ := fileOp_next hu
    exact ⟨_, _, _, (delivered s f .file _ _).1⟩
  case inr =>
    have hw : t.w = op (s.operand f) := by
      rcases (fileSkipOp_next ht).2 with ⟨-, rfl⟩ | ⟨-, -, rfl⟩ <;> rfl
    rw [hw]
    rcases (fileSkipOp_next hu).2 with ⟨-, rfl⟩ | ⟨-, hp, rfl⟩
    · exact ⟨_, _, _, (delivered_plain s f .file _).1⟩
    · exact ⟨_, _, _, (delivered_plain s f .file _).1.skip hp⟩

/-! ### Ports -/

/-- Each pin of a port (R72, D14). -/
theorem getLsbD_pins (r : PortRegs) {n : Nat} (hn : n < 8) :
    r.pins.getLsbD n =
      ((if r.tris.getLsbD n || r.load.getLsbD n then r.level.getLsbD n else r.latch.getLsbD n) &&
        !r.analog.getLsbD n) := by
  simp only [PortRegs.pins, BitVec.getLsbD_and, BitVec.getLsbD_or, BitVec.getLsbD_not, hn, decide_true, Bool.true_and]
  cases r.tris.getLsbD n || r.load.getLsbD n <;> simp

/-- A byte written to a port is in its latch. -/
theorem writeReg_port_latch (s : State) (p : PortId) (v : Byte) : ((s.writeReg (.port p) v).port p).latch = v :=
  writeReg_holds s (.port p) v

/-! ### A store and the read after it -/

/-- An operand designates the same register as long as STATUS, and for INDF also FSR, are the same (R63, R64). -/
theorem resolve_of_same {s t : State} {f : FileField} (dev : t.dev = s.dev) (status : t.status = s.status)
    (fsr : f = 0 → t.fsr = s.fsr) : t.resolve f = s.resolve f := by
  have haddr : t.operandAddr f = s.operandAddr f := by
    by_cases hf : f = 0
    · subst hf
      rw [operandAddr_indf, operandAddr_indf, State.indirectAddr, State.irp, status, fsr rfl]
      rfl
    · rw [operandAddr_direct t hf, operandAddr_direct s hf, State.directAddr, State.rp0, State.rp1, status]
      rfl
  rw [State.resolve, dev, haddr]
  rfl

theorem movwf_next {s : State} {f : FileField} (h : s.Allows f) :
    exec (.movwf f) s = .next (s.advance.writeReg (s.resolve f) s.w) := fileStore_allowed _ h

theorem movf_w_next {s : State} {f : FileField} (h : s.Allows f) :
    exec (.movf f .w) s = .next ({ s.advance with w := s.operand f }.withFlags (.zeroOf (s.operand f))) :=
  (exec_movf s f .w).trans (fileOp_allowed .w mov8 h)

/-- What is stored to a register other than STATUS, or through INDF to FSR, does not move the operand. -/
theorem resolve_after_store {s : State} {f : FileField} {r : FileReg} (v : Byte) (hf : s.resolve f = r)
    (hstatus : r ≠ .status) (hfsr : r = .fsr → f ≠ 0) : (s.advance.writeReg r v).resolve f = r := by
  refine (resolve_of_same (writeReg_dev _ r v) (writeReg_status_of_ne _ r v hstatus) fun h0 => ?_).trans hf
  exact writeReg_fsr_of_ne _ r v fun hr => hfsr hr h0

/-- The MOVF reads what the register gives (R66). -/
theorem readsAs_of_resolve {s : State} {f : FileField} {r : FileReg} {v : Byte} (hf : s.resolve f = r)
    (hr : ∀ a, r ≠ .unimplemented a) (hv : s.readReg r = v) : ReadsAs s f v := by
  refine ⟨_, movf_w_next (allows_of_resolve (hf ▸ hr)), ?_⟩
  change s.readReg (s.resolve f) = v
  rw [hf, hv]

/-- The MOVF after a MOVWF reads what the register makes of W. -/
theorem readsBack_of_resolve {s : State} {f : FileField} {r : FileReg} {v : Byte} (hf : s.resolve f = r)
    (hr : ∀ a, r ≠ .unimplemented a) (hstatus : r ≠ .status) (hfsr : r = .fsr → f ≠ 0)
    (hv : (s.advance.writeReg r s.w).readReg r = v) : ReadsBack s f v := by
  refine ⟨_, movwf_next (allows_of_resolve (hf ▸ hr)), ?_⟩
  rw [hf]
  exact readsAs_of_resolve (resolve_after_store s.w hf hstatus hfsr) hr hv

/-- PCLATH reads with three zeros above it. -/
theorem setWidth_eq_zero_append (v : BitVec 5) : v.setWidth 8 = 0#3 ++ v :=
  BitVec.setWidth_eq_append (by decide)

/-- PCLATH keeps the low five bits of a stored byte. -/
theorem setWidth_extractLsb'_low_five (v : Byte) : (v.extractLsb' 0 5).setWidth 8 = v &&& 0x1F := by
  apply BitVec.eq_of_toNat_eq
  have hmask : v.toNat &&& 31 = v.toNat % 2 ^ 5 := Nat.and_two_pow_sub_one_eq_mod v.toNat 5
  simp [hmask]
  omega

end Sys2Proof.Machine
end

section
/-! SUPPORT. Program memory: nothing writes it (R61, R83), and no instruction looks at it (R61). -/

namespace Sys2Proof.Machine

/-! ### Program memory and the device are never written -/

/-- No instruction writes program memory or the device parameters. -/
theorem exec_program_dev {i : Instr} {s t : State} (h : exec i s = .next t) :
    t.program = s.program ∧ t.dev = s.dev := by
  cases exec_effect h with
  | file f d v u _ ht =>
    subst ht
    have rest := (delivered s f d v u).1.rest
    exact ⟨rest.program, rest.dev⟩
  | skip f d v _ hp ht =>
    subst ht
    have rest := ((delivered_plain s f d v).1.skip hp).rest
    exact ⟨rest.program, rest.dev⟩
  | load _ _ ht | pc _ _ ht | call _ _ ht | ret _ _ ht | retfie _ ht | clrwdt _ ht | sleep _ ht =>
    subst ht
    exact ⟨rfl, rfl⟩
  | option _ ht | tris _ _ _ _ ht => subst ht; exact ⟨writeReg_program _ _ s.w, writeReg_dev _ _ s.w⟩

/-- Nor does interrupt entry. -/
theorem takeInterrupt_program_dev {s t : State} (h : s.takeInterrupt = .next t) :
    t.program = s.program ∧ t.dev = s.dev := by
  obtain ⟨-, hk⟩ := push_next h
  injection hk with hk
  subst hk
  exact ⟨rfl, rfl⟩

/-- Nor does any step. -/
theorem step_program_dev {s t : State} (h : step s = .next t) : t.program = s.program ∧ t.dev = s.dev := by
  obtain ⟨-, -, -, -, -, -, -, -, -, -, hprogram, -, -, hdev, -⟩ := afterUpdates_keeps s
  rw [← hprogram, ← hdev]
  rcases step_cases h with ⟨_, _, rfl⟩ | rfl | hint | ⟨u, w, hwoken, -, hexec⟩
  · exact ⟨rfl, rfl⟩
  · exact ⟨rfl, rfl⟩
  · exact takeInterrupt_program_dev hint
  · have hkeeps := exec_program_dev hexec
    rcases hwoken with rfl | rfl | rfl <;> exact hkeeps

/-! ### Another program memory -/

/-- The state with another program memory. -/
def State.withProgram (s : State) (m : List (Nat × InstrWord)) : State := { s with program := m }

/-- The outcome with another program memory in its next state. -/
def outcomeWithProgram (m : List (Nat × InstrWord)) : Result → Result
  | .next t => .next (t.withProgram m)
  | .fault r => .fault r
  | .refused r => .refused r

section
variable (s : State) (m : List (Nat × InstrWord))

theorem advance_withProgram : (s.withProgram m).advance = s.advance.withProgram m := rfl
theorem skip_withProgram : (s.withProgram m).skip = s.skip.withProgram m := rfl
theorem withFlags_withProgram (u : FlagUpdate) : (s.withProgram m).withFlags u = (s.withFlags u).withProgram m := rfl

theorem readReg_withProgram (r : FileReg) : (s.withProgram m).readReg r = s.readReg r := by
  cases r <;> rfl

theorem writeReg_withProgram (r : FileReg) (v : Byte) :
    (s.withProgram m).writeReg r v = (s.writeReg r v).withProgram m := by
  cases r with
  | port p | tris p => cases p <;> rfl
  | _ => rfl

theorem writeDest_withProgram (r : FileReg) (d : Dest) (v : Byte) :
    (s.withProgram m).writeDest r d v = (s.writeDest r d v).withProgram m := by
  cases d with
  | w => rfl
  | file => exact writeReg_withProgram s m r v

/-- The access finds the same register; what goes on with it may only differ by the program memory. -/
theorem access_withProgram (f : FileField) {k k' : FileReg → Result} (h : ∀ r, k' r = outcomeWithProgram m (k r)) :
    (s.withProgram m).access f k' = outcomeWithProgram m (s.access f k) := by
  have hresolve : (s.withProgram m).resolve f = s.resolve f := rfl
  have hdev : (s.withProgram m).dev = s.dev := rfl
  unfold State.access
  rw [hresolve, hdev, h]
  split <;> rfl

theorem fileOp_withProgram (f : FileField) (d : Dest) (op : Byte → Alu) :
    (s.withProgram m).fileOp f d op = outcomeWithProgram m (s.fileOp f d op) := by
  refine access_withProgram s m f fun r => ?_
  dsimp only
  rw [readReg_withProgram, advance_withProgram, writeDest_withProgram, withFlags_withProgram]
  rfl

theorem fileStore_withProgram (f : FileField) (out : Alu) :
    (s.withProgram m).fileStore f out = outcomeWithProgram m (s.fileStore f out) := by
  refine access_withProgram s m f fun r => ?_
  rw [advance_withProgram, writeReg_withProgram, withFlags_withProgram]
  rfl

theorem fileSkipOp_withProgram (f : FileField) (d : Dest) (op : Byte → Byte) :
    (s.withProgram m).fileSkipOp f d op = outcomeWithProgram m (s.fileSkipOp f d op) := by
  refine access_withProgram s m f fun r => ?_
  dsimp only
  rw [readReg_withProgram, advance_withProgram, writeDest_withProgram, skip_withProgram]
  split
  · rfl
  · split <;> rfl

theorem bitOp_withProgram (f : FileField) (b : BitField) (value : Bool) :
    (s.withProgram m).bitOp f b value = outcomeWithProgram m (s.bitOp f b value) := by
  refine access_withProgram s m f fun r => ?_
  rw [readReg_withProgram, advance_withProgram, writeReg_withProgram]
  rfl

theorem bitTest_withProgram (f : FileField) (b : BitField) (skipWhen : Bool) :
    (s.withProgram m).bitTest f b skipWhen = outcomeWithProgram m (s.bitTest f b skipWhen) := by
  refine access_withProgram s m f fun r => ?_
  rw [readReg_withProgram]
  split <;> rfl

theorem push_withProgram (v : ProgAddr) {k k' : State → Result}
    (h : ∀ t : State, k' (t.withProgram m) = outcomeWithProgram m (k t)) :
    (s.withProgram m).push v k' = outcomeWithProgram m (s.push v k) := by
  have hstops : (s.withProgram m).pushStops = s.pushStops := rfl
  unfold State.push
  rw [hstops]
  split
  · rfl
  · exact h (s.pushed v)

theorem pop_withProgram {k k' : ProgAddr → State → Result}
    (h : ∀ v (t : State), k' v (t.withProgram m) = outcomeWithProgram m (k v t)) :
    (s.withProgram m).pop k' = outcomeWithProgram m (s.pop k) := by
  have hstops : (s.withProgram m).popStops = s.popStops := rfl
  unfold State.pop
  rw [hstops]
  split
  · rfl
  · exact h s.tos s.popped

theorem returnFromCall_withProgram :
    (s.withProgram m).returnFromCall = outcomeWithProgram m s.returnFromCall :=
  pop_withProgram s m (k := fun v t => .next { t with pc := v }) fun _ _ => rfl

theorem returnFromInterrupt_withProgram :
    (s.withProgram m).returnFromInterrupt = outcomeWithProgram m s.returnFromInterrupt :=
  pop_withProgram s m (k := fun v t => .next { t.setGie true with pc := v }) fun _ _ => rfl

theorem execOption_withProgram : execOption (s.withProgram m) = outcomeWithProgram m (execOption s) := by
  have hdev : (s.withProgram m).dev = s.dev := rfl
  unfold execOption
  rw [hdev]
  split <;> rfl

theorem execTris_withProgram (f : BitVec 3) : execTris f (s.withProgram m) = outcomeWithProgram m (execTris f s) := by
  have hdev : (s.withProgram m).dev = s.dev := rfl
  unfold execTris
  rw [hdev]
  split
  · rfl
  · split
    · exact congrArg Host.Outcome.next (writeReg_withProgram s.advance m _ s.w)
    · rfl

/-- R61: with another program memory an instruction does the same, but for that memory. -/
theorem exec_withProgram (i : Instr) : exec i (s.withProgram m) = outcomeWithProgram m (exec i s) := by
  cases i with
  | addwf f d | andwf f d | comf f d | decf f d | incf f d | iorwf f d | movf f d | swapf f d
  | xorwf f d => exact fileOp_withProgram s m f d _
  | subwf f d => exact fileOp_withProgram s m f d fun a => sub8 a s.w
  | rlf f d => exact fileOp_withProgram s m f d fun a => rotateLeft8 a s.flagC
  | rrf f d => exact fileOp_withProgram s m f d fun a => rotateRight8 a s.flagC
  | decfsz f d => exact fileSkipOp_withProgram s m f d fun a => a - 1
  | incfsz f d => exact fileSkipOp_withProgram s m f d fun a => a + 1
  | clrf f | movwf f => exact fileStore_withProgram s m f _
  | bcf f b | bsf f b => exact bitOp_withProgram s m f b _
  | btfsc f b | btfss f b => exact bitTest_withProgram s m f b _
  | call k =>
    rw [exec_call, exec_call]
    exact push_withProgram s m s.npc fun _ => rfl
  | ret => exact returnFromCall_withProgram s m
  | retlw k => exact returnFromCall_withProgram { s with w := k } m
  | retfie => exact returnFromInterrupt_withProgram s m
  | option => exact execOption_withProgram s m
  | tris f => exact execTris_withProgram s m f
  | clrw | nop | addlw k | andlw k | clrwdt | goto k | iorlw k | movlw k | sleep | sublw k | xorlw k | reserved w => rfl

end

end Sys2Proof.Machine
end

section
/-! SETTLED: the statements about the file register operand and the memories (20_memory.md). -/

namespace Sys2Proof.Proofs

open Sys2Proof.Machine

/-! ### The operand's address and the register map -/

/-- Settles O35. -/
theorem operandAddress : Obligations.OperandAddress := by
  intro s f
  refine ⟨fun hf => ?_, ?_⟩
  · rw [operandAddr_direct s hf]
    exact directAddr_toNat s f
  · rw [operandAddr_indf]
    exact indirectAddr_toNat s

/-- Settles O36: an address outside the common offsets is translated by the first mirror that covers it, and without
mirrors stands for itself. -/
theorem registerMap : Obligations.RegisterMap := by
  refine ⟨fun dev a => ?addresses, fun dev before after m a hbanked hbefore =>
    ⟨fun hdev => ?uncovered, fun hdev hlo hhi => ?mirrored⟩, fun s hfsr => ?indf⟩
  case addresses =>
    obtain ⟨hindf, hpcl, hstatus, hfsr, hpclath, hintcon⟩ := locate_common_registers dev a
    refine ⟨hindf, hpcl, hstatus, hfsr, hpclath, hintcon, fun hmirrors hbanked => ?_⟩
    have hlocate : locate dev a = locateBanked dev a.toNat := by
      rw [locate_not_common dev hbanked, deviceMirror_uncovered (by rw [hmirrors]; nofun), locateAt_banked dev hbanked]
    rw [hlocate]
    refine ⟨by rintro rfl; rfl, by rintro rfl; rfl, fun _ => locateBanked_port dev, fun _ => locateBanked_tris dev,
      fun hgeneral => ⟨fun hram => ?_, fun hnone => ?_⟩⟩
    · rw [locateBanked_general dev hgeneral, if_pos ((deviceHasRam_iff dev a).2 hram)]
    · have hram : ¬ deviceHasRam dev a.toNat = true := by
        rw [deviceHasRam_iff]
        rintro ⟨r, hr, hlo, hhi⟩
        have hmiss := hnone r hr
        omega
      rw [locateBanked_general dev hgeneral, if_neg hram]
  case uncovered =>
    rw [locate_not_common dev hbanked, deviceMirror_uncovered (by rwa [hdev]), locate_without_mirrors]
  case mirrored =>
    rw [locate_not_common dev hbanked, deviceMirror_covered hdev hbefore ⟨hlo, hhi⟩, locate_without_mirrors]
  case indf =>
    have hself : s.resolve 0 = .indfSelf := resolve_indfSelf hfsr
    refine ⟨by rw [State.operand, hself]; rfl, ?_⟩
    rw [exec_movwf, fileStore_allowed _ (by rw [State.Allows, hself]; rfl), hself]
    rfl

/-- Settles O37. -/
theorem unimplementedOperands : Obligations.UnimplementedOperands := by
  refine ⟨fun i s f hi hrefused => ?_, fun s f => allows_of_readsZero f, fun s f a hf => ?_⟩
  · obtain ⟨a, ha⟩ := resolve_of_not_allowed hrefused
    refine ⟨a, ha, ?_⟩
    rw [exec_not_allowed hi hrefused, ha]
    rfl
  · rw [State.operand, hf]
    rfl

/-! ### Special operands -/

/-- Settles O38: a store to PCL delivers its value below PCLATH, and both destinations compute one value. -/
theorem pclAsOperand : Obligations.PclAsOperand := by
  intro s f hf
  have allows : s.Allows f := allows_of_resolve (by rw [hf]; nofun)
  refine ⟨⟨_, movf_w_next allows, ?read, rfl, rfl⟩, ?movwf, fun mk hmk t u ht hu => ?byte,
    fun i t hs ht => ?stores⟩
  case read =>
    change s.readReg (s.resolve f) = _
    rw [hf]
    rfl
  case movwf =>
    rw [movwf_next allows, hf]
    rfl
  case byte =>
    obtain ⟨c, dc, z, hd⟩ := byteInstr_delivers_value_of_w hmk ht hu
    exact (hd.pc_of_pcl hf).1
  case stores =>
    obtain ⟨v, c, dc, z, hd⟩ := exec_delivers hs ht
    obtain ⟨hpc, hpclath⟩ := hd.pc_of_pcl hf
    exact ⟨by rw [hpc]; exact BitVec.extractLsb'_append_eq_left, hpclath, cycles_of_storesTo_pcl hs hf⟩

/-- Settles O39. -/
theorem portReadModifyWrite : Obligations.PortReadModifyWrite := by
  refine ⟨fun s f p hf => ?_, fun r n hn => ?_⟩
  · have allows : s.Allows f := allows_of_resolve (by rw [hf]; nofun)
    have operand : s.operand f = (s.port p).pins := by rw [State.operand, hf]; rfl
    have latch : ∀ v, ((s.advance.writeReg (s.resolve f) v).port p).latch = v := by
      rw [hf]
      exact writeReg_port_latch s.advance p
    refine ⟨fun b => ⟨_, bitOp_allowed b true allows, ?_⟩, fun b => ⟨_, bitOp_allowed b false allows, ?_⟩,
      ⟨_, (exec_movf s f .file).trans (fileOp_allowed .file _ allows), ?_⟩, ⟨_, movwf_next allows, latch s.w⟩⟩
    · rw [latch, operand]
      rfl
    · rw [latch, operand]
      rfl
    · exact (latch _).trans operand
  · rw [getLsbD_pins r hn]
    refine ⟨fun ha => ?_, fun ha ht hl => ?_, fun ha hout => ?_⟩
    · simp [ha]
    · simp [ha, ht, hl]
    · simp [ha, hout]

/-- Settles O41: the frame of a store to TMR0 says what becomes of the prescaler count. -/
theorem tmr0ClearsPrescaler : Obligations.Tmr0ClearsPrescaler := by
  intro i s t f hs hf h
  have files : FilesSameExcept .tmr0 s t := hf ▸ files_of_storesTo hs h
  calc t.psc = s.pscAfterTmr0Write := files.psc
    _ = if s.dev.prescalerFromPsa = true ∧ s.optionReg.getLsbD 3 = true then s.psc else 0 := by
      simp only [State.pscAfterTmr0Write, State.psaIsWdt, Bool.and_eq_true]

/-! ### What an instruction changes, and a store with the read after it -/

/-- Settles O42: a storing instruction changes the register its operand designates, the others none but those that
write a register of their own. -/
theorem onlyTheStoredRegister : Obligations.OnlyTheStoredRegister := by
  intro i s t h
  refine ⟨fun f hs => files_of_storesTo hs h, fun hs => files_of_storesTo_none hs h, ?_, ?_, ?_,
    fun hi => files_of_clears hi h⟩
  · rintro rfl
    exact files_of_retfie h
  · rintro rfl
    exact files_of_option h
  · rintro n p rfl hp
    exact files_of_tris hp h

/-- Settles O43: the operand still designates the register after the store, so the read gives what the register made
of W. -/
theorem storeThenLoad : Obligations.StoreThenLoad := by
  intro s f
  refine ⟨fun a hf => ?ram,
    fun hf => ⟨readsAs_of_resolve hf nofun rfl, readsBack_of_resolve hf nofun nofun nofun rfl⟩,
    fun hf => readsAs_of_resolve hf nofun rfl,
    fun hf => ⟨readsAs_of_resolve hf nofun rfl, fun h0 => readsBack_of_resolve hf nofun nofun (fun _ => h0) rfl⟩,
    fun hf => ⟨readsAs_of_resolve hf nofun (setWidth_eq_zero_append s.pclath),
      readsBack_of_resolve hf nofun nofun nofun (setWidth_extractLsb'_low_five s.w)⟩,
    fun hf => ⟨readsAs_of_resolve hf nofun rfl, readsBack_of_resolve hf nofun nofun nofun rfl⟩,
    fun hf => ⟨readsAs_of_resolve hf nofun rfl, readsBack_of_resolve hf nofun nofun nofun rfl⟩,
    fun p hf => ⟨readsAs_of_resolve hf nofun rfl,
      readsBack_of_resolve hf nofun nofun nofun (writeReg_holds s.advance (.tris p) s.w)⟩⟩
  case ram =>
    have hstored := resolve_after_store s.w hf nofun nofun
    have hread : (s.advance.writeReg (.ram a) s.w).operand f = s.w := by
      rw [State.operand, hstored]
      exact read_write_same s.ram a s.w
    refine ⟨_, _, (movwf_next (allows_of_resolve (by rw [hf]; nofun))).trans (by rw [hf]),
      movf_w_next (allows_of_resolve (by rw [hstored]; nofun)), hread, fun b hb => ?_⟩
    exact read_write_other s.ram a b s.w hb

/-! ### Program memory -/

/-- Settles O53. -/
theorem programNeverWritten : Obligations.ProgramNeverWritten := fun _ _ h => step_program_dev h

/-- Settles O54. -/
theorem programIsNoData : Obligations.ProgramIsNoData := by
  intro i s m
  have hexec : exec i { s with program := m } = outcomeWithProgram m (exec i s) := exec_withProgram s m i
  refine ⟨fun t ht => ?_, fun r hr => ?_, fun r hr => ?_⟩
  · rw [hexec, ht]
    rfl
  · rw [hexec, hr]
    rfl
  · rw [hexec, hr]
    rfl

end Sys2Proof.Proofs
end

section
/-! SUPPORT. What the proofs of the encoding family use: the fields of an encoded word format by format (R101, R102), a
word put together from its fields, and the decoder and the encoder as inverses of each other up to don't-care bits. -/

namespace Sys2Proof

/-! ### The fields of an encoded word (R101, R102) -/

section
variable (d : Dest) (f : FileField) (b : BitField) (k : Byte)

@[simp] theorem class_encodeByte (op : BitVec 6) : (encodeByte op d f).extractLsb' 12 2 = op.extractLsb' 4 2 :=
  (BitVec.extractLsb'_append_eq_of_le (xhi := op ++ encodeD d) (by decide)).trans
    (BitVec.extractLsb'_append_eq_of_le (by decide))

@[simp] theorem opcode_encodeByte (op : BitVec 6) : (encodeByte op d f).extractLsb' 8 4 = op.extractLsb' 0 4 :=
  (BitVec.extractLsb'_append_eq_of_le (xhi := op ++ encodeD d) (by decide)).trans
    (BitVec.extractLsb'_append_eq_of_le (by decide))

@[simp] theorem fieldD_encodeByte (op : BitVec 6) : fieldD (encodeByte op d f) = d := by
  have h7 : (encodeByte op d f).getLsbD 7 = (encodeD d).getLsbD 0 := by
    rw [encodeByte, BitVec.getLsbD_append, if_neg (by decide), BitVec.getLsbD_append, if_pos (by decide)]
  rw [fieldD, h7]
  cases d <;> rfl

@[simp] theorem fieldF_encodeByte (op : BitVec 6) : fieldF (encodeByte op d f) = f := BitVec.extractLsb'_append_eq_right

theorem upper_encodeByte1 (op : BitVec 7) : (encodeByte1 op f).extractLsb' 7 7 = op := BitVec.extractLsb'_append_eq_left

@[simp] theorem class_encodeByte1 (op : BitVec 7) : (encodeByte1 op f).extractLsb' 12 2 = op.extractLsb' 5 2 :=
  BitVec.extractLsb'_append_eq_of_le (by decide)

@[simp] theorem opcode_encodeByte1 (op : BitVec 7) : (encodeByte1 op f).extractLsb' 8 4 = op.extractLsb' 1 4 :=
  BitVec.extractLsb'_append_eq_of_le (by decide)

@[simp] theorem bit7_encodeByte1 (op : BitVec 7) : (encodeByte1 op f)[7] = op[0] :=
  (BitVec.getElem_append (by decide)).trans (dif_neg (by decide))

@[simp] theorem fieldF_encodeByte1 (op : BitVec 7) : fieldF (encodeByte1 op f) = f := BitVec.extractLsb'_append_eq_right

@[simp] theorem class_encodeBit (op : BitVec 4) : (encodeBit op b f).extractLsb' 12 2 = op.extractLsb' 2 2 :=
  (BitVec.extractLsb'_append_eq_of_le (xhi := op ++ b) (by decide)).trans
    (BitVec.extractLsb'_append_eq_of_le (by decide))

@[simp] theorem opcode_encodeBit (op : BitVec 4) : (encodeBit op b f).extractLsb' 10 2 = op.extractLsb' 0 2 :=
  (BitVec.extractLsb'_append_eq_of_le (xhi := op ++ b) (by decide)).trans
    (BitVec.extractLsb'_append_eq_of_le (by decide))

@[simp] theorem fieldB_encodeBit (op : BitVec 4) : fieldB (encodeBit op b f) = b :=
  (BitVec.extractLsb'_append_eq_of_le (xhi := op ++ b) (by decide)).trans BitVec.extractLsb'_append_eq_right

@[simp] theorem fieldF_encodeBit (op : BitVec 4) : fieldF (encodeBit op b f) = f := BitVec.extractLsb'_append_eq_right

theorem upper_encodeLit8 (op : BitVec 6) : (encodeLit8 op k).extractLsb' 8 6 = op := BitVec.extractLsb'_append_eq_left

@[simp] theorem class_encodeLit8 (op : BitVec 6) : (encodeLit8 op k).extractLsb' 12 2 = op.extractLsb' 4 2 :=
  BitVec.extractLsb'_append_eq_of_le (by decide)

@[simp] theorem opcode_encodeLit8 (op : BitVec 6) : (encodeLit8 op k).extractLsb' 8 4 = op.extractLsb' 0 4 :=
  BitVec.extractLsb'_append_eq_of_le (by decide)

@[simp] theorem fieldK8_encodeLit8 (op : BitVec 6) : fieldK8 (encodeLit8 op k) = k := BitVec.extractLsb'_append_eq_right

@[simp] theorem class_encodeLit11 (op : BitVec 3) (k : BitVec 11) :
    (encodeLit11 op k).extractLsb' 12 2 = op.extractLsb' 1 2 := BitVec.extractLsb'_append_eq_of_le (by decide)

@[simp] theorem bit11_encodeLit11 (op : BitVec 3) (k : BitVec 11) :
    (encodeLit11 op k)[11] = op[0] := (BitVec.getElem_append (by decide)).trans (dif_neg (by decide))

@[simp] theorem fieldK11_encodeLit11 (op : BitVec 3) (k : BitVec 11) : fieldK11 (encodeLit11 op k) = k :=
  BitVec.extractLsb'_append_eq_right

end

/-! ### A word put together from its fields -/

section
variable {w : InstrWord}

/-- A field of a word cut in two. -/
theorem extractLsb'_split (w : InstrWord) (s m n : Nat) :
    w.extractLsb' s (m + n) = w.extractLsb' (s + n) m ++ w.extractLsb' s n :=
  (BitVec.extractLsb'_append_extractLsb'_eq_extractLsb' rfl).symm

theorem extractLsb'_one (w : InstrWord) (n : Nat) : w.extractLsb' n 1 = BitVec.ofBool (w.getLsbD n) :=
  BitVec.eq_of_getLsbD_eq fun i hi => by
    obtain rfl : i = 0 := by omega
    simp

theorem encodeD_fieldD (w : InstrWord) : encodeD (fieldD w) = w.extractLsb' 7 1 := by
  rw [extractLsb'_one, fieldD]
  cases w.getLsbD 7 <;> rfl

theorem eq_encodeByte1 {op : BitVec 7} (h : w.extractLsb' 7 7 = op) : w = encodeByte1 op (fieldF w) := by
  subst h
  exact BitVec.extractLsb'_eq_self.symm.trans (extractLsb'_split w 0 7 7)

theorem eq_encodeByte {op : BitVec 6} (h : w.extractLsb' 8 6 = op) : w = encodeByte op (fieldD w) (fieldF w) := by
  subst h
  rw [encodeByte, encodeD_fieldD]
  exact eq_encodeByte1 (extractLsb'_split w 7 6 1)

theorem eq_encodeBit {op : BitVec 4} (h : w.extractLsb' 10 4 = op) : w = encodeBit op (fieldB w) (fieldF w) := by
  subst h
  exact eq_encodeByte1 (extractLsb'_split w 7 4 3)

theorem eq_encodeLit8 {op : BitVec 6} (h : w.extractLsb' 8 6 = op) : w = encodeLit8 op (fieldK8 w) := by
  subst h
  exact BitVec.extractLsb'_eq_self.symm.trans (extractLsb'_split w 0 6 8)

theorem eq_encodeLit11 {op : BitVec 3} (h : w.extractLsb' 11 3 = op) : w = encodeLit11 op (fieldK11 w) := by
  subst h
  exact BitVec.extractLsb'_eq_self.symm.trans (extractLsb'_split w 0 3 11)

/-! ### The opcode from what the decoder looks at (R105) -/

theorem eq_ofNat_of_toNat {n a : Nat} {x : BitVec n} (h : x.toNat = a) : x = BitVec.ofNat n a := by
  rw [← h, BitVec.ofNat_toNat, BitVec.setWidth_eq]

/-- The bits 13:8 of a word. -/
theorem opcode_of_class {a b : Nat} (ha : (w.extractLsb' 12 2).toNat = a) (hb : (w.extractLsb' 8 4).toNat = b) :
    w.extractLsb' 8 6 = BitVec.ofNat 2 a ++ BitVec.ofNat 4 b := by
  rw [← eq_ofNat_of_toNat ha, ← eq_ofNat_of_toNat hb]
  exact extractLsb'_split w 8 2 4

/-- The bits 13:10 of a word, the opcode of format BIT. -/
theorem bitOpcode_of_class {a b : Nat} (ha : (w.extractLsb' 12 2).toNat = a) (hb : (w.extractLsb' 10 2).toNat = b) :
    w.extractLsb' 10 4 = BitVec.ofNat 2 a ++ BitVec.ofNat 2 b := by
  rw [← eq_ofNat_of_toNat ha, ← eq_ofNat_of_toNat hb]
  exact extractLsb'_split w 10 2 2

/-- The bits 13:11 of a word, the opcode of format LIT11. -/
theorem jumpOpcode_of_class {a : Nat} {c : Bool} (ha : (w.extractLsb' 12 2).toNat = a) (h11 : w.getLsbD 11 = c) :
    w.extractLsb' 11 3 = BitVec.ofNat 2 a ++ BitVec.ofBool c := by
  rw [← eq_ofNat_of_toNat ha, ← h11, ← extractLsb'_one]
  exact extractLsb'_split w 11 2 1

/-- The bits 13:7 of a word, fixed in format BYTE1. -/
theorem byte1Opcode_of_opcode {op : BitVec 6} {c : Bool} (hop : w.extractLsb' 8 6 = op) (h7 : w.getLsbD 7 = c) :
    w.extractLsb' 7 7 = op ++ BitVec.ofBool c := by
  rw [← hop, ← h7, ← extractLsb'_one]
  exact extractLsb'_split w 7 6 1

end

/-! ### Words under the mask of an instruction (R106) -/

theorem append_eq_append_iff {m n : Nat} {x x' : BitVec m} {y y' : BitVec n} :
    x ++ y = x' ++ y' ↔ x = x' ∧ y = y' := by
  constructor
  · intro h
    have hx := congrArg (BitVec.extractLsb' n m) h
    have hy := congrArg (BitVec.extractLsb' 0 n) h
    exact ⟨by simpa only [BitVec.extractLsb'_append_eq_left] using hx,
      by simpa only [BitVec.extractLsb'_append_eq_right] using hy⟩
  · rintro ⟨rfl, rfl⟩
    rfl

/-- Two words differ nowhere under a mask exactly when they are the same under it. -/
theorem xor_and_eq_zero_iff {n : Nat} {x y m : BitVec n} : (x ^^^ y) &&& m = 0 ↔ x &&& m = y &&& m := by
  have hdistrib : (x ^^^ y) &&& m = (x &&& m) ^^^ (y &&& m) := by
    ext j
    simp [Bool.and_xor_distrib_right]
  rw [hdistrib]
  exact BitVec.xor_eq_zero_iff

/-- Don't-care bits in the opcode of a literal instruction. -/
theorem encodeLit8_and_mask (op mask : BitVec 6) (k : Byte) :
    encodeLit8 op k &&& ~~~(~~~mask ++ 0#8) = encodeLit8 (op &&& mask) k := by
  rw [BitVec.not_append, BitVec.not_not]
  exact (BitVec.and_append (x₁ := op)).trans (congrArg ((op &&& mask) ++ ·) BitVec.and_allOnes)

/-- Don't-care bits in the bits 6:0. -/
theorem encodeByte1_and_mask (op : BitVec 7) (f mask : FileField) :
    encodeByte1 op f &&& ~~~(0#7 ++ ~~~mask) = encodeByte1 op (f &&& mask) := by
  rw [BitVec.not_append, BitVec.not_not]
  exact (BitVec.and_append (x₁ := op)).trans (congrArg (· ++ (f &&& mask)) BitVec.and_allOnes)

theorem and_not_zero (w : InstrWord) : w &&& ~~~0x0000 = w := BitVec.and_allOnes

/-- The encoder sets the don't-care bits to 0. -/
theorem encode_and_not_dontCareBits (i : Instr) : encode i &&& ~~~dontCareBits i = encode i := by
  cases i with
  | movlw k | retlw k => exact encodeLit8_and_mask _ 0b111100 k
  | addlw k | sublw k => exact encodeLit8_and_mask _ 0b111110 k
  | clrw | nop => rfl
  | _ => exact and_not_zero _

/-! ### Agreement with an instruction (R106) -/

/-- The word is the encoding of the instruction up to its don't-care bits. -/
def AgreesWith (w : InstrWord) (i : Instr) : Prop := w &&& ~~~dontCareBits i = encode i

section
variable {w : InstrWord} {i : Instr} {k : Byte}

theorem agreesWith_iff_xor : AgreesWith w i ↔ (w ^^^ encode i) &&& ~~~dontCareBits i = 0 := by
  rw [xor_and_eq_zero_iff, encode_and_not_dontCareBits]
  rfl

theorem AgreesWith.of_eq (h : w = encode i) : AgreesWith w i := by
  rw [AgreesWith, h, encode_and_not_dontCareBits]

/-- Without don't-care bits the encoding is the only word. -/
theorem agreesWith_iff_eq (h : dontCareBits i = 0) : AgreesWith w i ↔ w = encode i := by
  rw [AgreesWith, h]
  exact iff_of_eq (congrArg (· = encode i) (and_not_zero w))

/-- Agreement of a literal instruction: the opcode under the mask, and the literal. -/
theorem agreesWith_iff_of_lit8 {op mask : BitVec 6} (he : encode i = encodeLit8 op k)
    (hd : dontCareBits i = ~~~mask ++ 0#8) :
    AgreesWith w i ↔ w.extractLsb' 8 6 &&& mask = op ∧ fieldK8 w = k := by
  obtain ⟨op', k', rfl⟩ : ∃ op' k', w = encodeLit8 op' k' := ⟨_, _, eq_encodeLit8 rfl⟩
  rw [AgreesWith, he, hd, encodeLit8_and_mask, upper_encodeLit8, fieldK8_encodeLit8]
  exact append_eq_append_iff

/-- Agreement of `CLRW` and `NOP`: the seven bits of the opcode, and the bits 6:0 under the mask. -/
theorem agreesWith_iff_of_byte1 {op : BitVec 7} {f mask : FileField} (he : encode i = encodeByte1 op f)
    (hd : dontCareBits i = 0#7 ++ ~~~mask) :
    AgreesWith w i ↔ w.extractLsb' 7 7 = op ∧ fieldF w &&& mask = f := by
  obtain ⟨op', f', rfl⟩ : ∃ op' f', w = encodeByte1 op' f' := ⟨_, _, eq_encodeByte1 rfl⟩
  rw [AgreesWith, he, hd, encodeByte1_and_mask, upper_encodeByte1, fieldF_encodeByte1]
  exact append_eq_append_iff

/-! #### The six instructions with don't-care bits -/

theorem agreesWith_movlw_iff :
    AgreesWith w (.movlw k) ↔ w.extractLsb' 8 6 &&& 0b111100 = 0b110000 ∧ fieldK8 w = k :=
  agreesWith_iff_of_lit8 (op := 0b110000) (mask := 0b111100) rfl rfl

theorem agreesWith_retlw_iff :
    AgreesWith w (.retlw k) ↔ w.extractLsb' 8 6 &&& 0b111100 = 0b110100 ∧ fieldK8 w = k :=
  agreesWith_iff_of_lit8 (op := 0b110100) (mask := 0b111100) rfl rfl

theorem agreesWith_addlw_iff :
    AgreesWith w (.addlw k) ↔ w.extractLsb' 8 6 &&& 0b111110 = 0b111110 ∧ fieldK8 w = k :=
  agreesWith_iff_of_lit8 (op := 0b111110) (mask := 0b111110) rfl rfl

theorem agreesWith_sublw_iff :
    AgreesWith w (.sublw k) ↔ w.extractLsb' 8 6 &&& 0b111110 = 0b111100 ∧ fieldK8 w = k :=
  agreesWith_iff_of_lit8 (op := 0b111100) (mask := 0b111110) rfl rfl

theorem agreesWith_nop_iff : AgreesWith w .nop ↔ w.extractLsb' 7 7 = 0 ∧ fieldF w &&& 0x1F = 0 :=
  agreesWith_iff_of_byte1 (op := 0) (f := 0) (mask := 0x1F) rfl rfl

theorem agreesWith_clrw_iff : AgreesWith w .clrw ↔ w.extractLsb' 7 7 = 0b0000010 := by
  rw [agreesWith_iff_of_byte1 (op := 0b0000010) (f := 0) (mask := 0) rfl rfl]
  exact and_iff_left BitVec.and_zero

/-! ### A word agrees with its decoding -/

/-- The low bits the decoder takes for `NOP`, whatever bits 6:5 are. -/
theorem and_mask_eq_zero_of_low_five : ∀ f : FileField, f.extractLsb' 0 5 = 0#5 → f &&& 0x1F = 0 := by decide

theorem low_five_eq (w : InstrWord) : w.extractLsb' 0 5 = (fieldF w).extractLsb' 0 5 :=
  (BitVec.extractLsb'_extractLsb'_of_le (by decide)).symm

theorem agreesWith_decodeLow (hop : w.extractLsb' 8 6 = 0) : AgreesWith w (decodeLow w) := by
  unfold decodeLow
  split_ifs with h7 hnop hret hretfie hoption hsleep hclrwdt htris
  case pos => exact .of_eq (eq_encodeByte1 (byte1Opcode_of_opcode hop h7))
  all_goals
    have hupper : w.extractLsb' 7 7 = 0#7 := byte1Opcode_of_opcode hop (Bool.eq_false_of_not_eq_true h7)
    have hw : w = encodeByte1 0#7 (fieldF w) := eq_encodeByte1 hupper
  · rw [low_five_eq] at hnop
    exact agreesWith_nop_iff.2 ⟨hupper, and_mask_eq_zero_of_low_five _ hnop⟩
  · rw [hret] at hw; exact .of_eq hw
  · rw [hretfie] at hw; exact .of_eq hw
  · rw [hoption] at hw; exact .of_eq hw
  · rw [hsleep] at hw; exact .of_eq hw
  · rw [hclrwdt] at hw; exact .of_eq hw
  · rcases htris with hf | hf | hf <;> rw [hf] at hw <;> subst hw <;> rfl
  · exact .of_eq rfl

theorem agreesWith_decodeByte (h : (w.extractLsb' 12 2).toNat = 0) : AgreesWith w (decodeByte w) := by
  have hlt : (w.extractLsb' 8 4).toNat < 16 := (w.extractLsb' 8 4).isLt
  unfold decodeByte
  split
  case h_1 hb => exact agreesWith_decodeLow (opcode_of_class h hb)
  case h_2 hb =>
    have hop := opcode_of_class h hb
    split
    case isTrue h7 => exact .of_eq (eq_encodeByte1 (byte1Opcode_of_opcode hop h7))
    case isFalse h7 =>
      exact agreesWith_clrw_iff.2 (byte1Opcode_of_opcode hop (Bool.eq_false_of_not_eq_true h7))
  case h_16 =>
    have hb : (w.extractLsb' 8 4).toNat = 15 := by
      simp only [imp_false] at *
      omega
    exact .of_eq (eq_encodeByte (opcode_of_class h hb))
  case h_3 hb | h_4 hb | h_5 hb | h_6 hb | h_7 hb | h_8 hb | h_9 hb | h_10 hb | h_11 hb | h_12 hb | h_13 hb | h_14 hb |
      h_15 hb =>
    exact .of_eq (eq_encodeByte (opcode_of_class h hb))

theorem agreesWith_decodeBit (h : (w.extractLsb' 12 2).toNat = 1) : AgreesWith w (decodeBit w) := by
  have hlt : (w.extractLsb' 10 2).toNat < 4 := (w.extractLsb' 10 2).isLt
  unfold decodeBit
  split
  case h_4 =>
    have hb : (w.extractLsb' 10 2).toNat = 3 := by
      simp only [imp_false] at *
      omega
    exact .of_eq (eq_encodeBit (bitOpcode_of_class h hb))
  case h_1 hb | h_2 hb | h_3 hb => exact .of_eq (eq_encodeBit (bitOpcode_of_class h hb))

theorem agreesWith_decodeJump (h : (w.extractLsb' 12 2).toNat = 2) : AgreesWith w (decodeJump w) := by
  unfold decodeJump
  split
  case isTrue h11 => exact .of_eq (eq_encodeLit11 (jumpOpcode_of_class h h11))
  case isFalse h11 =>
    exact .of_eq (eq_encodeLit11 (jumpOpcode_of_class h (Bool.eq_false_of_not_eq_true h11)))

theorem agreesWith_decodeLiteral (h : (w.extractLsb' 12 2).toNat = 3) : AgreesWith w (decodeLiteral w) := by
  have hlt : (w.extractLsb' 8 4).toNat < 16 := (w.extractLsb' 8 4).isLt
  unfold decodeLiteral
  split
  case h_1 hb | h_2 hb | h_3 hb | h_4 hb => exact agreesWith_movlw_iff.2 ⟨by rw [opcode_of_class h hb]; rfl, rfl⟩
  case h_5 hb | h_6 hb | h_7 hb | h_8 hb => exact agreesWith_retlw_iff.2 ⟨by rw [opcode_of_class h hb]; rfl, rfl⟩
  case h_9 hb | h_10 hb | h_11 hb => exact .of_eq (eq_encodeLit8 (opcode_of_class h hb))
  case h_12 => exact .of_eq rfl
  case h_13 hb | h_14 hb => exact agreesWith_sublw_iff.2 ⟨by rw [opcode_of_class h hb]; rfl, rfl⟩
  case h_15 hb => exact agreesWith_addlw_iff.2 ⟨by rw [opcode_of_class h hb]; rfl, rfl⟩
  case h_16 =>
    have hb : (w.extractLsb' 8 4).toNat = 15 := by
      simp only [imp_false] at *
      omega
    exact agreesWith_addlw_iff.2 ⟨by rw [opcode_of_class h hb]; rfl, rfl⟩

/-- Every word is the encoding of what it decodes to, up to don't-care bits. -/
theorem agreesWith_decode (w : InstrWord) : AgreesWith w (decode w) := by
  have hlt : (w.extractLsb' 12 2).toNat < 4 := (w.extractLsb' 12 2).isLt
  unfold decode
  split
  case h_1 h => exact agreesWith_decodeByte h
  case h_2 h => exact agreesWith_decodeBit h
  case h_3 h => exact agreesWith_decodeJump h
  case h_4 =>
    have h : (w.extractLsb' 12 2).toNat = 3 := by
      simp only [imp_false] at *
      omega
    exact agreesWith_decodeLiteral h

end

/-! ### Reserved words (R107) -/

theorem isReservedWord_iff {w : InstrWord} : isReservedWord w = true ↔
    (w.toNat < 0x80 ∧ w ∉ lowInstrWords) ∨ (0x3B00 ≤ w.toNat ∧ w.toNat ≤ 0x3BFF) := by
  simp [isReservedWord]

/-- The bits that make a word a `NOP` give one of the four words of the list. -/
theorem nop_listed : ∀ f : FileField, f.extractLsb' 0 5 = 0#5 → encodeByte1 0#7 f ∈ lowInstrWords := by decide

/-- A word below 0x80 that no branch of `decodeLow` takes. -/
theorem decodeLow_unlisted {f : FileField} (h : encodeByte1 0#7 f ∉ lowInstrWords) :
    decodeLow (encodeByte1 0#7 f) = .reserved (encodeByte1 0#7 f) := by
  have hne : ∀ g : FileField, encodeByte1 0#7 g ∈ lowInstrWords → fieldF (encodeByte1 0#7 f) ≠ g := by
    intro g hg hfg
    rw [fieldF_encodeByte1] at hfg
    exact h (hfg ▸ hg)
  have hlow : (encodeByte1 0#7 f).extractLsb' 0 5 ≠ 0#5 := by
    rw [low_five_eq, fieldF_encodeByte1]
    exact mt (nop_listed f) h
  unfold decodeLow
  rw [if_neg (by simp), if_neg hlow, if_neg (hne _ (by decide)), if_neg (hne _ (by decide)),
    if_neg (hne _ (by decide)), if_neg (hne _ (by decide)), if_neg (hne _ (by decide)),
    if_neg (not_or.2 ⟨hne _ (by decide), not_or.2 ⟨hne _ (by decide), hne _ (by decide)⟩⟩)]

/-- Each word of R107 decodes to itself as reserved. -/
theorem decode_of_isReservedWord {w : InstrWord} (h : isReservedWord w = true) : decode w = .reserved w := by
  rcases isReservedWord_iff.1 h with ⟨hlow, hnot⟩ | ⟨hlo, hhi⟩
  · have hw : w = encodeByte1 0#7 (fieldF w) := eq_encodeByte1 (eq_ofNat_of_toNat (by
      rw [BitVec.extractLsb'_toNat, Nat.shiftRight_eq_div_pow]
      omega))
    rw [hw] at hnot ⊢
    have hdecode : decode (encodeByte1 0#7 (fieldF w)) = decodeLow (encodeByte1 0#7 (fieldF w)) := by
      simp [decode, decodeByte]
    rw [hdecode, decodeLow_unlisted hnot]
  · have hw : w = encodeLit8 0x3B#6 (fieldK8 w) := eq_encodeLit8 (eq_ofNat_of_toNat (by
      rw [BitVec.extractLsb'_toNat, Nat.shiftRight_eq_div_pow]
      omega))
    rw [hw]
    simp [decode, decodeLiteral]

/-! ### The decoder gives the instruction back -/

/-- The round trip, by the format of the encoding. -/
theorem decode_encode {i : Instr} (h : i.wellFormed = true) : decode (encode i) = i := by
  cases i with
  | addwf | andwf | comf | decf | decfsz | incf | incfsz | iorwf | movf | rlf | rrf | subwf | swapf | xorwf =>
    simp [encode, decode, decodeByte]
  | clrf | movwf => simp [encode, decode, decodeByte, decodeLow]
  | bcf | bsf | btfsc | btfss => simp [encode, decode, decodeBit]
  | call | goto => simp [encode, decode, decodeJump]
  | addlw | andlw | iorlw | movlw | retlw | sublw | xorlw => simp [encode, decode, decodeLiteral]
  | clrw | nop | clrwdt | retfie | ret | sleep | option => rfl
  | tris f => revert f; decide
  | reserved w => exact decode_of_isReservedWord h

/-! ### The decoder does not see don't-care bits -/

section
variable {w : InstrWord} {i : Instr}

/-- A literal instruction that several opcodes stand for. -/
theorem decode_of_opcode_mem {ops : List (BitVec 6)} {mk : Byte → Instr} (h : w.extractLsb' 8 6 ∈ ops)
    (hmk : ∀ op ∈ ops, ∀ k, decode (encodeLit8 op k) = mk k) : decode w = mk (fieldK8 w) :=
  (congrArg decode (eq_encodeLit8 rfl)).trans (hmk _ h _)

theorem movlw_opcodes : ∀ op : BitVec 6, op &&& 0b111100 = 0b110000 → op ∈ [0x30#6, 0x31#6, 0x32#6, 0x33#6] :=
  by decide
theorem retlw_opcodes : ∀ op : BitVec 6, op &&& 0b111100 = 0b110100 → op ∈ [0x34#6, 0x35#6, 0x36#6, 0x37#6] :=
  by decide
theorem addlw_opcodes : ∀ op : BitVec 6, op &&& 0b111110 = 0b111110 → op ∈ [0x3E#6, 0x3F#6] :=
  by decide
theorem sublw_opcodes : ∀ op : BitVec 6, op &&& 0b111110 = 0b111100 → op ∈ [0x3C#6, 0x3D#6] :=
  by decide
theorem nop_fields : ∀ f : FileField, f &&& 0x1F = 0 → decode (encodeByte1 0 f) = .nop := by decide

/-- Every word that agrees with a well-formed instruction decodes to it. -/
theorem decode_of_agreesWith (hwf : i.wellFormed = true) (h : AgreesWith w i) : decode w = i := by
  by_cases hd : dontCareBits i = 0
  · rw [(agreesWith_iff_eq hd).1 h, decode_encode hwf]
  · cases i with
    | movlw k =>
      obtain ⟨hop, rfl⟩ := agreesWith_movlw_iff.1 h
      exact decode_of_opcode_mem (movlw_opcodes _ hop) (by simp [decode, decodeLiteral])
    | retlw k =>
      obtain ⟨hop, rfl⟩ := agreesWith_retlw_iff.1 h
      exact decode_of_opcode_mem (retlw_opcodes _ hop) (by simp [decode, decodeLiteral])
    | addlw k =>
      obtain ⟨hop, rfl⟩ := agreesWith_addlw_iff.1 h
      exact decode_of_opcode_mem (addlw_opcodes _ hop) (by simp [decode, decodeLiteral])
    | sublw k =>
      obtain ⟨hop, rfl⟩ := agreesWith_sublw_iff.1 h
      exact decode_of_opcode_mem (sublw_opcodes _ hop) (by simp [decode, decodeLiteral])
    | clrw =>
      rw [eq_encodeByte1 (agreesWith_clrw_iff.1 h)]
      simp [decode, decodeByte]
    | nop =>
      obtain ⟨hop, hf⟩ := agreesWith_nop_iff.1 h
      rw [eq_encodeByte1 hop]
      exact nop_fields _ hf
    | _ => exact absurd rfl hd

/-- The words of an instruction. -/
theorem decode_eq_iff : decode w = i ↔ i.wellFormed = true ∧ AgreesWith w i := by
  constructor
  · rintro rfl
    exact ⟨decode_wellFormed w, agreesWith_decode w⟩
  · rintro ⟨hwf, h⟩
    exact decode_of_agreesWith hwf h

/-- For an instruction that is always well-formed, the mask alone decides. -/
theorem decode_eq_iff_of_wellFormed (h : i.wellFormed = true) : decode w = i ↔ w &&& ~~~dontCareBits i = encode i :=
  decode_eq_iff.trans (and_iff_right h)

/-- The encoding of a literal instruction as a sum of its opcode and its literal. -/
theorem encodeLit8_eq_or (op : BitVec 6) (k : Byte) : encodeLit8 op k = (op ++ 0#8) ||| k.setWidth 14 := by
  apply BitVec.eq_of_getLsbD_eq
  intro j hj
  rw [encodeLit8, BitVec.getLsbD_or, BitVec.getLsbD_append, BitVec.getLsbD_append, BitVec.getLsbD_setWidth]
  split
  case isTrue => simp [hj]
  case isFalse h8 => simp [BitVec.getLsbD_of_ge k j (Nat.le_of_not_lt h8)]

/-- The words of a literal instruction, by its opcode, its literal and its don't-care bits. -/
theorem decode_eq_iff_of_lit8 {op : BitVec 6} {k : Byte} {free : InstrWord} (hwf : i.wellFormed = true)
    (he : encode i = encodeLit8 op k) (hd : dontCareBits i = free) :
    decode w = i ↔ w &&& ~~~free = (op ++ 0#8) ||| k.setWidth 14 := by
  rw [decode_eq_iff_of_wellFormed hwf, he, hd, encodeLit8_eq_or]

/-- The six instructions with don't-care bits. -/
theorem dontCareBits_eq_zero_or (i : Instr) : dontCareBits i = 0 ∨ i = .clrw ∨ i = .nop ∨
    ∃ k, i = .movlw k ∨ i = .retlw k ∨ i = .addlw k ∨ i = .sublw k := by
  cases i with
  | movlw k | retlw k | addlw k | sublw k => exact .inr (.inr (.inr ⟨k, by simp⟩))
  | clrw => exact .inr (.inl rfl)
  | nop => exact .inr (.inr (.inl rfl))
  | _ => exact .inl rfl

/-- A reserved word decodes to itself. -/
theorem decode_eq_reserved_iff {v : InstrWord} : decode w = .reserved v ↔ isReservedWord w = true ∧ v = w := by
  rw [decode_eq_iff, agreesWith_iff_eq rfl]
  constructor
  · rintro ⟨hv, rfl⟩
    exact ⟨hv, rfl⟩
  · rintro ⟨hw, rfl⟩
    exact ⟨hw, rfl⟩

end

end Sys2Proof
end

section
/-! SETTLED: the statements about the encoding (30_encoding.md). -/

namespace Sys2Proof.Proofs

open Sys2Proof.Machine

/-! ### Decoding and encoding -/

/-- Settles O2: the round trip, format by format. -/
theorem decodeOfEncode : Obligations.DecodeOfEncode := fun _ h => decode_encode h

/-- Settles O3: every word agrees with its decoding, and the decoder does not see don't-care bits. -/
theorem wordsOfAnInstruction : Obligations.WordsOfAnInstruction := fun _ _ =>
  decode_eq_iff.trans (and_congr_right fun _ => agreesWith_iff_xor)

/-- Settles O4: the mask of each of the six instructions leaves out its don't-care bits; any other instruction has none,
and one word. -/
theorem dontCareBits : Obligations.DontCareBits := by
  have word := encodeLit8_eq_or
  refine ⟨fun w => decode_eq_iff_of_wellFormed rfl, fun w => decode_eq_iff_of_wellFormed rfl,
    fun w k => decode_eq_iff_of_lit8 (op := 0b110000) (free := 0x0300) rfl rfl rfl,
    fun w k => decode_eq_iff_of_lit8 (op := 0b110100) (free := 0x0300) rfl rfl rfl,
    fun w k => decode_eq_iff_of_lit8 (op := 0b111110) (free := 0x0100) rfl rfl rfl,
    fun w k => decode_eq_iff_of_lit8 (op := 0b111100) (free := 0x0100) rfl rfl rfl,
    ⟨rfl, rfl, fun k => ⟨word _ k, word _ k, word _ k, word _ k⟩⟩, ?_⟩
  intro v w hvw
  refine (dontCareBits_eq_zero_or (decode w)).imp_left fun hd => ?_
  have hv : v = encode (decode w) := (agreesWith_iff_eq hd).1 (hvw ▸ agreesWith_decode v)
  have hw : w = encode (decode w) := (agreesWith_iff_eq hd).1 (agreesWith_decode w)
  exact hv.trans hw.symm

/-- Settles O5: a reserved word is well-formed by R107's list and encodes itself. -/
theorem reservedWords : Obligations.ReservedWords := by
  refine ⟨fun w => ?_, fun v w h => (decode_eq_reserved_iff.1 h).2, by rfl⟩
  have hlisted : w.toNat ∈ lowInstrWords.map BitVec.toNat ↔ w ∈ lowInstrWords :=
    List.mem_map_of_injective BitVec.toNat_injective
  rw [decode_eq_reserved_iff, and_iff_left rfl, isReservedWord_iff, ← hlisted]
  rfl

/-- Settles O1: each word is the encoding of its instruction, bit by bit. -/
theorem sampleWordsDecode : Obligations.SampleWordsDecode :=
  ⟨decode_encode (i := .addwf 0x20 .file) rfl, decode_encode (i := .movwf 0x20) rfl,
    decode_encode (i := .bsf 0x03 5) rfl, decode_encode (i := .call 0x234) rfl, decode_encode (i := .sublw 0x02) rfl,
    decode_encode (i := .sleep) rfl, decode_encode (i := .tris 6) rfl, decode_encode (i := .reserved 0x3B00) rfl⟩

/-! ### Reserved words -/

/-- Settles O34: a reserved word is refused outright, `OPTION` and `TRIS` where the device lacks what they name. -/
theorem reservedRefused : Obligations.ReservedRefused := by
  refine ⟨exec_reserved, fun s hoption => ?_, fun s f hlacks => ?_⟩
  · rw [exec_option, execOption, hoption]
    rfl
  · rw [exec_tris, execTris]
    split
    case h_1 => rfl
    case h_2 p hp =>
      have hno : deviceHasTris s.dev p = false := by
        rcases hlacks with htris | hport
        · rw [deviceHasTris, htris, Bool.false_and]
        · have hmem : p ∉ s.dev.ports := fun hin => hport p hin hp
          simp [deviceHasTris, hmem]
      rw [hno]
      rfl

end Sys2Proof.Proofs
end

section
/-! SUPPORT. The byte-oriented instructions by their shape: the cycles of R239, completion (R130, R150) and the skip
on a result 0 (R151), the values on which a result is 0, and what an instruction does to a general purpose byte. -/

namespace Sys2Proof.Machine

/-! ### Cycles (R239) -/

theorem fileOpCycles_eq_cyclesTo (s : State) (f : FileField) (d : Dest) :
    s.fileOpCycles f d = cyclesTo (s.resolve f) d := by
  unfold State.fileOpCycles State.namesPcl cyclesTo writtenReg
  cases d <;> simp

theorem fileSkipCycles_eq_cyclesTo {s : State} {f : FileField} {op : Byte → Byte} {z : Byte} (d : Dest)
    (hz : ∀ a, op a = 0 ↔ a = z) :
    s.fileSkipCycles f d op = if s.operand f = z then 2 else cyclesTo (s.resolve f) d := by
  rw [State.fileSkipCycles, fileOpCycles_eq_cyclesTo]
  exact if_congr (hz _) rfl rfl

/-! ### The values on which a result is 0 -/

theorem not_eq_zero_iff (a : Byte) : ~~~a = 0 ↔ a = 0xFF := BitVec.not_eq_comm

theorem add_one_eq_zero_iff (a : Byte) : a + 1 = 0 ↔ a = 0xFF := add_eq_zero_iff_eq_neg

theorem sub_one_eq_zero_iff (a : Byte) : a - 1 = 0 ↔ a = 1 := sub_eq_zero

/-- A result that affects Z alone, with the condition on the operand under which it is 0. -/
theorem resultZ_eq {r : Byte} {p : Prop} [Decidable p] (h : r = 0 ↔ p) :
    resultZ r = ⟨r, none, none, some (decide p)⟩ := by
  rw [resultZ, FlagUpdate.zeroOf, decide_eq_decide.2 h]

/-! ### Completion -/

section
variable {s : State} {i : Instr} {f : FileField} {d : Dest}

/-- A read-modify-write completes with the value and the flags of its operation. -/
theorem completes_of_fileOp {op : Byte → Alu} {v : Byte} {c dc z : Option Bool} (hexec : exec i s = s.fileOp f d op)
    (hop : op (s.operand f) = ⟨v, c, dc, z⟩) : Completes s i f d v c dc z := by
  intro allows
  refine ⟨_, hexec.trans (fileOp_allowed d op allows), ?_⟩
  rw [hop]
  exact delivered s f d v ⟨c, dc, z⟩

/-- A store without a read completes with the value and the flags it is given. -/
theorem completes_of_fileStore {out : Alu} (hexec : exec i s = s.fileStore f out) :
    Completes s i f .file out.value out.flags.c out.flags.dc out.flags.z := fun allows =>
  ⟨_, hexec.trans (fileStore_allowed out allows), delivered s f .file out.value out.flags⟩

/-- A result 0 that goes to PCL is refused (U6). -/
theorem fileSkipOp_refused {op : Byte → Byte} (h : s.Allows f) (hv : op (s.operand f) = 0x00)
    (hp : writtenReg (s.resolve f) d = .pcl) : s.fileSkipOp f d op = .refused .skipAndJump := by
  cases d with
  | w => cases hp
  | file =>
    refine (access_allowed _ h).trans ?_
    change (if op (s.operand f) ≠ 0x00 then _ else _) = _
    rw [if_neg (not_not.2 hv)]
    exact if_pos ⟨rfl, hp⟩

/-- `DECFSZ` and `INCFSZ`: the three cases of the result. -/
theorem completesOrSkips_of_fileSkipOp {op : Byte → Byte} (hexec : exec i s = s.fileSkipOp f d op) :
    CompletesOrSkips s i f d (op (s.operand f)) := by
  intro allows
  obtain ⟨hdelivered, hpc⟩ := delivered_plain s f d (op (s.operand f))
  refine ⟨fun hv => ?goesOn, fun hv hp => ?skips, fun hv hp => ?refused⟩
  case goesOn => exact ⟨_, hexec.trans (fileSkipOp_goes_on allows hv), hdelivered, hpc⟩
  case skips =>
    exact ⟨_, hexec.trans (fileSkipOp_skips allows hv hp), hdelivered.skip hp, congrArg (· + 1) (hpc hp)⟩
  case refused => exact hexec.trans (fileSkipOp_refused allows hv hp)

/-- A byte-oriented instruction that answers a next state delivered a value to its destination. -/
theorem byteInstr_delivers {mk : FileField → Dest → Instr} (hmk : mk ∈ byteInstrs) {t : State}
    (h : exec (mk f d) s = .next t) : ∃ v c dc z, Delivered s t f d v c dc z := by
  rcases exec_eq_fileOp_or_fileSkipOp hmk s with ⟨op, hexec⟩ | ⟨op, hexec⟩ <;> rw [hexec] at h
  case inl =>
    obtain ⟨-, rfl⟩ := fileOp_next h
    exact ⟨_, _, _, _, (delivered s f d _ _).1⟩
  case inr =>
    rcases (fileSkipOp_next h).2 with ⟨-, rfl⟩ | ⟨-, hp, rfl⟩
    · exact ⟨_, _, _, _, (delivered_plain s f d _).1⟩
    · exact ⟨_, _, _, _, (delivered_plain s f d _).1.skip hp⟩

end

/-! ### A general purpose byte as operand -/

/-- An operand designates the same register as long as the bank bits and FSR are the same (R63, R64). -/
theorem resolve_of_bankBits {s t : State} {f : FileField} (dev : t.dev = s.dev)
    (bankBits : t.status.extractLsb' 5 3 = s.status.extractLsb' 5 3) (fsr : t.fsr = s.fsr) :
    t.resolve f = s.resolve f := by
  have bit : ∀ n < 3, t.status.getLsbD (5 + n) = s.status.getLsbD (5 + n) := by
    intro n hn
    have h := congrArg (fun x : BitVec 3 => x.getLsbD n) bankBits
    simpa [hn] using h
  have rp0 : t.rp0 = s.rp0 := bit 0 (by decide)
  have rp1 : t.rp1 = s.rp1 := bit 1 (by decide)
  have irp : t.irp = s.irp := bit 2 (by decide)
  rw [State.resolve, State.resolve, State.operandAddr, State.operandAddr, State.indirectAddr, State.indirectAddr,
    State.directAddr, State.directAddr, dev, rp0, rp1, irp, fsr]

/-- An instruction that completes on a general purpose byte leaves its result there as the same operand, sets flags, and
moves on. -/
theorem Completes.on_ram {s : State} {i : Instr} {f : FileField} {v : Byte} {c dc z : Option Bool} {a : Nat}
    (h : Completes s i f .file v c dc z) (hf : s.resolve f = .ram a) :
    ∃ t, exec i s = .next t ∧ t.resolve f = .ram a ∧ t.operand f = v ∧ StatusIs t.status s.status c dc z ∧
      t.pc = s.pc + 1 := by
  obtain ⟨t, hexec, hd, hpc⟩ := h (allows_of_resolve (by rw [hf]; nofun))
  obtain ⟨-, toFile, status, files, rest⟩ := hd
  rw [hf] at toFile status files hpc
  have hresolve : t.resolve f = .ram a :=
    (resolve_of_bankBits rest.dev (files.bankBits nofun) (files.fsr nofun)).trans hf
  refine ⟨t, hexec, hresolve, ?_, status, hpc nofun⟩
  rw [State.operand, hresolve]
  exact toFile rfl

/-- STATUS in which no flag was given a value is the data. -/
theorem StatusIs.eq_data {after data : Byte} (h : StatusIs after data none none none) : after = data := by
  apply BitVec.eq_of_getLsbD_eq
  intro n _
  match n with
  | 0 => exact h.c
  | 1 => exact h.dc
  | 2 => exact h.z
  | n + 3 => exact h.getLsbD (by omega)

/-! ### Nibbles (R148) -/

theorem completes_swapf (s : State) (f : FileField) (d : Dest) :
    Completes s (.swapf f d) f d ((s.operand f).extractLsb' 0 4 ++ (s.operand f).extractLsb' 4 4) none none none :=
  completes_of_fileOp (exec_swapf s f d) rfl

/-- Exchanging the nibbles twice restores the byte. -/
theorem swapNibbles_swapNibbles (v : Byte) :
    ((v.extractLsb' 0 4 ++ v.extractLsb' 4 4 : Byte).extractLsb' 0 4 ++
      (v.extractLsb' 0 4 ++ v.extractLsb' 4 4 : Byte).extractLsb' 4 4 : Byte) = v := by
  rw [BitVec.extractLsb'_append_eq_right, BitVec.extractLsb'_append_eq_left,
    BitVec.extractLsb'_append_extractLsb'_eq_extractLsb' (by decide)]
  exact BitVec.extractLsb'_eq_self

end Sys2Proof.Machine
end

section
/-! SUPPORT. The rotations through C as rotations of a word of nine bits, C above the byte (R37, R145, R146), and as
many of them in a row as the word has bits. -/

namespace Sys2Proof.Machine

/-! ### Turning a word -/

/-- Each bit comes from `k` places further up, around the word. -/
def TurnsBits {w : Nat} (rot : BitVec w → BitVec w) (k : Nat) : Prop :=
  ∀ x i, i < w → (rot x).getLsbD i = x.getLsbD ((i + k) % w)

theorem turnsBits_rotateLeft_one {w : Nat} (hw : 1 < w) :
    TurnsBits (fun x : BitVec w => x.rotateLeft 1) (w - 1) := by
  intro x i hi
  rw [BitVec.getLsbD_rotateLeft, Nat.mod_eq_of_lt hw]
  cases i with
  | zero => simp [Nat.mod_eq_of_lt (by omega : w - 1 < w)]
  | succ i =>
    have hturn : (i + 1 + (w - 1)) % w = i := by
      rw [show i + 1 + (w - 1) = i + w by omega, Nat.add_mod_right, Nat.mod_eq_of_lt (by omega)]
    simp [hturn, hi]

theorem turnsBits_rotateRight_one {w : Nat} (hw : 1 < w) :
    TurnsBits (fun x : BitVec w => x.rotateRight 1) 1 := by
  intro x i hi
  rw [BitVec.getLsbD_rotateRight, Nat.mod_eq_of_lt hw]
  by_cases hlast : i = w - 1
  · have hturn : (i + 1) % w = 0 := by rw [hlast, Nat.sub_add_cancel (by omega), Nat.mod_self]
    rw [hturn, decide_eq_false (by omega), decide_eq_true hi, hlast, Nat.sub_self]
    rfl
  · have hbelow : i < w - 1 := by omega
    simp [hbelow, Nat.mod_eq_of_lt (by omega : i + 1 < w), Nat.add_comm 1 i]

theorem TurnsBits.iterate {w k : Nat} {rot : BitVec w → BitVec w} (h : TurnsBits rot k) (n : Nat) :
    TurnsBits (rot^[n]) (n * k) := by
  induction n with
  | zero =>
    intro x i hi
    simp [Nat.mod_eq_of_lt hi]
  | succ n ih =>
    intro x i hi
    rw [Function.iterate_succ_apply', h _ i hi, ih _ _ (Nat.mod_lt _ (by omega)), Nat.mod_add_mod, Nat.succ_mul,
      Nat.add_assoc, Nat.add_comm k]

/-- As many turns as the word has bits restore it. -/
theorem TurnsBits.iterate_width {w k : Nat} {rot : BitVec w → BitVec w} (h : TurnsBits rot k) (x : BitVec w) :
    rot^[w] x = x := by
  apply BitVec.eq_of_getLsbD_eq
  intro i hi
  rw [h.iterate w x i hi, Nat.add_mul_mod_self_left, Nat.mod_eq_of_lt hi]

/-! ### The nine bits of a rotation through C -/

/-- The nine bits that `RLF` and `RRF` rotate: C above the operand. -/
def State.carryOverOperand (s : State) (f : FileField) : BitVec 9 := BitVec.ofBool s.flagC ++ s.operand f

theorem rotateLeft_carry_over (c : Bool) (v : Byte) :
    (BitVec.ofBool c ++ v : BitVec 9).rotateLeft 1 =
      BitVec.ofBool (v.getLsbD 7) ++ (v.extractLsb' 0 7 ++ BitVec.ofBool c : Byte) := by
  apply BitVec.eq_of_getLsbD_eq
  intro i hi
  rw [turnsBits_rotateLeft_one (by decide) _ i hi]
  simp only [BitVec.getLsbD_append, BitVec.getLsbD_extractLsb', BitVec.getLsbD_ofBool]
  interval_cases i <;> simp

theorem rotateRight_carry_over (c : Bool) (v : Byte) :
    (BitVec.ofBool c ++ v : BitVec 9).rotateRight 1 =
      BitVec.ofBool (v.getLsbD 0) ++ (BitVec.ofBool c ++ v.extractLsb' 1 7 : Byte) := by
  apply BitVec.eq_of_getLsbD_eq
  intro i hi
  rw [turnsBits_rotateRight_one (by decide) _ i hi]
  simp only [BitVec.getLsbD_append, BitVec.getLsbD_extractLsb', BitVec.getLsbD_ofBool]
  interval_cases i <;> simp

/-- On a general purpose byte the instruction turns the nine bits, leaves its operand the same byte, and moves on. -/
def RotatesRam (i : Instr) (f : FileField) (rot : BitVec 9 → BitVec 9) : Prop :=
  ∀ (s : State) (a : Nat), s.resolve f = .ram a →
    ∃ t, exec i s = .next t ∧ t.resolve f = .ram a ∧ t.carryOverOperand f = rot (s.carryOverOperand f) ∧
      t.pc = s.pc + 1

theorem RotatesRam.execAll_replicate {i : Instr} {f : FileField} {rot : BitVec 9 → BitVec 9} (h : RotatesRam i f rot)
    (n : Nat) {s : State} {a : Nat} (hf : s.resolve f = .ram a) :
    ∃ t, execAll (List.replicate n i) s = .next t ∧ t.carryOverOperand f = rot^[n] (s.carryOverOperand f) ∧
      t.pc = s.pc + (n : ProgAddr) := by
  induction n generalizing s with
  | zero => exact ⟨s, rfl, rfl, (add_zero s.pc).symm⟩
  | succ n ih =>
    obtain ⟨t, hexec, ht, hbits, hpc⟩ := h s a hf
    obtain ⟨u, hall, hbits', hpc'⟩ := ih ht
    refine ⟨u, ?_, ?_, ?_⟩
    · rw [List.replicate_succ, execAll, hexec]
      exact hall
    · rw [hbits', hbits, Function.iterate_succ_apply]
    · rw [hpc', hpc, Nat.cast_succ, add_assoc, add_comm 1]

/-- Nine rotations in a row restore the byte and C. -/
theorem RotatesRam.nine {i : Instr} {f : FileField} {rot : BitVec 9 → BitVec 9} {k : Nat} (h : RotatesRam i f rot)
    (hturns : TurnsBits rot k) {s : State} {a : Nat} (hf : s.resolve f = .ram a) :
    ∃ t, execAll (List.replicate 9 i) s = .next t ∧ t.operand f = s.operand f ∧ t.flagC = s.flagC ∧
      t.pc = s.pc + 9 := by
  obtain ⟨t, hall, hbits, hpc⟩ := h.execAll_replicate 9 hf
  rw [hturns.iterate_width] at hbits
  obtain ⟨hcarry, hoperand⟩ := append_eq_append_iff.1 hbits
  exact ⟨t, hall, hoperand, BitVec.ofBool_eq_iff_eq.1 hcarry, hpc⟩

/-! ### The two instructions -/

theorem completes_rlf (s : State) (f : FileField) (d : Dest) :
    Completes s (.rlf f d) f d ((s.operand f).extractLsb' 0 7 ++ BitVec.ofBool s.flagC)
      (some ((s.operand f).getLsbD 7)) none none :=
  completes_of_fileOp (exec_rlf s f d) rfl

theorem completes_rrf (s : State) (f : FileField) (d : Dest) :
    Completes s (.rrf f d) f d (BitVec.ofBool s.flagC ++ (s.operand f).extractLsb' 1 7)
      (some ((s.operand f).getLsbD 0)) none none :=
  completes_of_fileOp (exec_rrf s f d) rfl

theorem rlf_rotatesRam (f : FileField) : RotatesRam (.rlf f .file) f fun x => x.rotateLeft 1 := by
  intro s a hf
  obtain ⟨t, hexec, ht, hoperand, status, hpc⟩ := (completes_rlf s f .file).on_ram hf
  have hcarry : t.flagC = (s.operand f).getLsbD 7 := status.c
  refine ⟨t, hexec, ht, ?_, hpc⟩
  rw [State.carryOverOperand, State.carryOverOperand, hcarry, hoperand]
  exact (rotateLeft_carry_over _ _).symm

theorem rrf_rotatesRam (f : FileField) : RotatesRam (.rrf f .file) f fun x => x.rotateRight 1 := by
  intro s a hf
  obtain ⟨t, hexec, ht, hoperand, status, hpc⟩ := (completes_rrf s f .file).on_ram hf
  have hcarry : t.flagC = (s.operand f).getLsbD 0 := status.c
  refine ⟨t, hexec, ht, ?_, hpc⟩
  rw [State.carryOverOperand, State.carryOverOperand, hcarry, hoperand]
  exact (rotateRight_carry_over _ _).symm

end Sys2Proof.Machine
end

section
/-! SETTLED: the statements about the byte-oriented instructions (40_byte_oriented.md). -/

namespace Sys2Proof.Proofs

open Sys2Proof.Machine

/-! ### Arithmetic -/

/-- Settles O9: `add8` and `sub8` in one line each, Z of the difference by the equality of its operands. -/
theorem addwfSubwf : Obligations.AddwfSubwf := by
  intro s f d
  have hcycles := fileOpCycles_eq_cyclesTo s f d
  refine ⟨page_of rfl hcycles rfl, completes_of_fileOp (exec_addwf s f d) (add8_eq _ _),
    page_of rfl hcycles rfl, completes_of_fileOp (exec_subwf s f d) ((sub8_eq _ _).trans ?difference)⟩
  case difference => rw [FlagUpdate.arith, decide_eq_decide.2 sub_eq_zero]

/-- Settles O11. -/
theorem decfDecrements : Obligations.DecfDecrements := fun s f d =>
  ⟨page_of rfl (fileOpCycles_eq_cyclesTo s f d) rfl,
    completes_of_fileOp (exec_decf s f d) (resultZ_eq (sub_one_eq_zero_iff _))⟩

/-- Settles O16: the page and the three cases of the result follow from when the result is 0. -/
theorem decfszIncfsz : Obligations.DecfszIncfsz := fun s f d =>
  ⟨page_of rfl (fileSkipCycles_eq_cyclesTo d sub_one_eq_zero_iff) rfl,
    completesOrSkips_of_fileSkipOp (exec_decfsz s f d),
    page_of rfl (fileSkipCycles_eq_cyclesTo d add_one_eq_zero_iff) rfl,
    completesOrSkips_of_fileSkipOp (exec_incfsz s f d)⟩

/-! ### Logic and moves -/

/-- Settles O10: each is a result that affects Z alone, with the operands on which it is 0. -/
theorem zeroFlagOperations : Obligations.ZeroFlagOperations := by
  intro s f d
  have hcycles := fileOpCycles_eq_cyclesTo s f d
  exact
    ⟨page_of rfl hcycles rfl, completes_of_fileOp (exec_andwf s f d) (resultZ_eq Iff.rfl),
      page_of rfl hcycles rfl, completes_of_fileOp (exec_comf s f d) (resultZ_eq (not_eq_zero_iff _)),
      page_of rfl hcycles rfl, completes_of_fileOp (exec_incf s f d) (resultZ_eq (add_one_eq_zero_iff _)),
      page_of rfl hcycles rfl, completes_of_fileOp (exec_iorwf s f d) (resultZ_eq Iff.rfl),
      page_of rfl hcycles rfl, completes_of_fileOp (exec_movf s f d) (resultZ_eq Iff.rfl),
      page_of rfl hcycles rfl, completes_of_fileOp (exec_xorwf s f d) (resultZ_eq BitVec.xor_eq_zero_iff)⟩

/-- Settles O14. -/
theorem clrfMovwf : Obligations.ClrfMovwf := by
  intro s f
  have hcycles := fileOpCycles_eq_cyclesTo s f .file
  exact ⟨page_of rfl hcycles rfl, completes_of_fileStore (exec_clrf s f), page_of rfl hcycles rfl,
    completes_of_fileStore (exec_movwf s f)⟩

/-- Settles O15: the four words of `NOP` are those with its fixed bits (R106). -/
theorem clrwNop : Obligations.ClrwNop := by
  intro s
  obtain ⟨-, decode_nop, -⟩ := dontCareBits
  exact ⟨page_of rfl rfl rfl, ⟨_, exec_clrw s, loaded s (resultZ 0x00)⟩, page_of rfl rfl rfl,
    ⟨(decode_nop _).2 rfl, (decode_nop _).2 rfl, (decode_nop _).2 rfl, (decode_nop _).2 rfl⟩, exec_nop s⟩

/-! ### Rotations and nibbles -/

/-- Settles O12: each instruction turns the nine bits C and `f` by one place. -/
theorem rotatesThroughCarry : Obligations.RotatesThroughCarry := by
  intro s f
  refine ⟨fun d => ?pages, fun a hf => ⟨?left, ?right⟩⟩
  case pages =>
    have hcycles := fileOpCycles_eq_cyclesTo s f d
    exact ⟨page_of rfl hcycles rfl, completes_rlf s f d, page_of rfl hcycles rfl, completes_rrf s f d⟩
  case left => exact (rlf_rotatesRam f).nine (turnsBits_rotateLeft_one (by decide)) hf
  case right => exact (rrf_rotatesRam f).nine (turnsBits_rotateRight_one (by decide)) hf

/-- Settles O13: the second `SWAPF` finds the byte the first one left. -/
theorem swapfSwapsNibbles : Obligations.SwapfSwapsNibbles := by
  intro s f
  refine ⟨fun d => ⟨page_of rfl (fileOpCycles_eq_cyclesTo s f d) rfl, completes_swapf s f d⟩,
    fun a hf => ?twice⟩
  case twice =>
    obtain ⟨t, hexec, ht, hoperand, status, -⟩ := (completes_swapf s f .file).on_ram hf
    obtain ⟨u, hexec', -, hoperand', status', -⟩ := (completes_swapf t f .file).on_ram ht
    refine ⟨u, ?_, ?_, status'.eq_data.trans status.eq_data⟩
    · simp only [execAll, hexec, hexec']
    · rw [hoperand', hoperand, swapNibbles_swapNibbles]

/-! ### The destination -/

/-- Settles O17: both forms deliver, the one to W and the other the same value to the file register. -/
theorem destinationSelect : Obligations.DestinationSelect := by
  intro mk hmk s t u f ht hu
  obtain ⟨_, _, _, _, toW⟩ := byteInstr_delivers hmk ht
  obtain ⟨_, _, _, toFile⟩ := byteInstr_delivers_value_of_w hmk ht hu
  exact ⟨toW.files, toFile.toW, toFile.toFile rfl, toFile.files⟩

end Sys2Proof.Proofs
end

section
/-! SUPPORT. The bit-oriented instructions by their shape: completion of a changed bit (R160) and the next state of
a tested one (R163, R164). -/

namespace Sys2Proof.Machine

variable {s : State} {i : Instr} {f : FileField} {b : BitField}

/-- `BCF` and `BSF` deliver the whole byte, with the one bit at its value, to the file register. -/
theorem completes_of_bitOp {value : Bool} (hexec : exec i s = s.bitOp f b value) :
    Completes s i f .file (setBit (s.operand f) b.toNat value) none none none := fun allows =>
  ⟨_, hexec.trans (bitOp_allowed b value allows), delivered_plain s f .file _⟩

/-- A choice on a clear bit is the choice on a set bit the other way round. -/
theorem if_eq_false {α : Type} (bit : Bool) (whenClear whenSet : α) :
    (if bit = false then whenClear else whenSet) = if bit then whenSet else whenClear :=
  (if_congr Bool.eq_false_iff rfl rfl).trans (ite_not ..)

/-- `BTFSC` and `BTFSS` change the pc alone: one word further when the bit has the value they skip on. -/
theorem exec_of_bitTest {skipWhen : Bool} (hexec : exec i s = s.bitTest f b skipWhen) (allows : s.Allows f) :
    exec i s =
      .next { s with pc := if (s.operand f).getLsbD b.toNat = skipWhen then s.npc + 1 else s.npc } := by
  rw [hexec, bitTest_allowed b skipWhen allows]
  split <;> rfl

end Sys2Proof.Machine
end

section
/-! SETTLED: the statements about the bit-oriented instructions (41_bit_oriented.md). -/

namespace Sys2Proof.Proofs

open Sys2Proof.Machine

/-- Settles O19: each is the operand with the bit at its value, delivered to the file register. -/
theorem bcfBsf : Obligations.BcfBsf := by
  intro s f b
  have hcycles := fileOpCycles_eq_cyclesTo s f .file
  exact ⟨page_of rfl hcycles rfl, completes_of_bitOp (exec_bcf s f b), page_of rfl hcycles rfl,
    completes_of_bitOp (exec_bsf s f b)⟩

/-- Settles O20: `BTFSS` as the bit test has it, `BTFSC` with its choice on a clear bit turned round. -/
theorem btfscBtfss : Obligations.BtfscBtfss := by
  intro s f b
  refine ⟨page_of rfl (if_eq_false _ 2 1) rfl, fun allows => ?clear, page_of rfl rfl rfl,
    exec_of_bitTest (exec_btfss s f b)⟩
  case clear => rw [exec_of_bitTest (exec_btfsc s f b) allows, if_eq_false]

end Sys2Proof.Proofs
end

section
/-! SUPPORT. The literal and control instructions by their shape: completion of a literal instruction (R170), what a
control transfer leaves alone and does to the stack (R29), and the watchdog's registers after `CLRWDT` and `SLEEP`. -/

namespace Sys2Proof.Machine

/-! ### Literal instructions -/

/-- A literal instruction completes with the value and the flags of its operation. -/
theorem loads_of_literalOp {s : State} {i : Instr} {out : Alu} {v : Byte} {c dc z : Option Bool}
    (hexec : exec i s = s.literalOp out) (hout : out = ⟨v, c, dc, z⟩) : Loads s i v c dc z := by
  subst hout
  exact ⟨_, hexec, loaded s _⟩

/-! ### Control transfers -/

/-- A change of W, the pc and the stack leaves all else alone. -/
theorem outsideStack_of_transfer (s : State) (w : Byte) (pc tos : ProgAddr) (below : List ProgAddr) (held : Nat) :
    OutsideStack .indfSelf s { s with w := w, pc := pc, tos := tos, below := below, held := held } where
  status := rfl
  files := .of_eq nofun rfl rfl rfl rfl rfl (fun _ => rfl) rfl rfl rfl
  program := rfl
  wdt := rfl
  asleep := rfl
  inputs := rfl
  dev := rfl
  draws := rfl

/-- A pushed entry is a matter of the stack alone. -/
theorem PushedEntry.of_stack {s t u : State} {v : ProgAddr} (h : PushedEntry s t v) (tos : u.tos = t.tos)
    (below : u.below = t.below) (held : u.held = t.held) : PushedEntry s u v where
  top := tos.trans h.top
  below := by
    intro n hn
    rw [State.stackEntry, tos, below]
    exact h.below n hn
  held := held.trans h.held

/-- A popped entry is a matter of the stack alone. -/
theorem PoppedEntry.of_stack {s t u : State} (h : PoppedEntry s t) (tos : u.tos = t.tos) (below : u.below = t.below)
    (held : u.held = t.held) : PoppedEntry s u where
  entries := by
    intro n hn
    rw [State.stackEntry, tos, below]
    exact h.entries n hn
  stale := by
    rw [State.stackEntry, tos, below]
    exact h.stale
  held := held.trans h.held

/-- `CALL` where the stack has room (R173). -/
theorem exec_call_mayPush {s : State} (k : BitVec 11) (h : s.MayPush) :
    exec (.call k) s = .next { s.pushed s.npc with pc := s.pageTarget k } :=
  execCall_mayPush k h

/-- `RETURN` where there is an entry to pop (R180). -/
theorem exec_ret_mayPop {s : State} (h : s.MayPop) : exec .ret s = .next { s.popped with pc := s.tos } :=
  returnFromCall_mayPop h

/-- `RETLW` where there is an entry to pop (R179). -/
theorem exec_retlw_mayPop {s : State} (k : Byte) (h : s.MayPop) :
    exec (.retlw k) s = .next { s.popped with w := k, pc := s.tos } :=
  returnFromCall_mayPop (s := { s with w := k }) h

/-- `RETFIE` where there is an entry to pop (R178). -/
theorem exec_retfie_mayPop {s : State} (h : s.MayPop) :
    exec .retfie s = .next { s.popped.setGie true with pc := s.tos } :=
  returnFromInterrupt_mayPop h

/-- Setting GIE sets INTCON<7> and no other bit (R40). -/
theorem setBit_gie (v : Byte) : setBit v Config.bitGIE true = v ||| 0x80 := rfl

/-- `RETFIE` leaves all but the pc, the stack and INTCON alone. -/
theorem outsideStack_of_retfie {s t : State} (h : exec .retfie s = .next t) : OutsideStack .intcon s t := by
  have files := files_of_retfie h
  obtain ⟨-, hk⟩ := pop_next ((exec_retfie s).symm.trans h)
  injection hk with hk
  subst hk
  exact ⟨rfl, files, rfl, rfl, rfl, rfl, rfl, rfl⟩

/-! ### The watchdog and SLEEP -/

/-- TO and PD set, as `CLRWDT` leaves them (R174). -/
theorem setBit_to_pd_set (v : Byte) : setBit (setBit v Config.bitTO true) Config.bitPD true = v ||| 0x18 :=
  BitVec.or_assoc v 0x10 0x08

/-- TO set and PD cleared, as `SLEEP` leaves them (R181). -/
theorem setBit_to_set_pd_cleared (v : Byte) :
    setBit (setBit v Config.bitTO true) Config.bitPD false = (v ||| 0x10) &&& 0xF7 := rfl

/-- The prescaler count is kept only where it is tracked as Timer0's. -/
theorem pscAfterClear_eq (s : State) :
    s.pscAfterClear = if s.dev.prescalerFromPsa = true ∧ s.optionReg.getLsbD 3 = false then s.psc else 0 := by
  refine if_congr ?_ rfl rfl
  rw [Bool.and_eq_true, Bool.not_eq_true']
  rfl

/-- What `CLRWDT` and `SLEEP` share: the watchdog cleared, TO and PD given values, the pc moved on. -/
theorem advance_clearWatchdog_setToPd (s : State) (timeOut powerDown : Bool) :
    s.advance.clearWatchdog.setToPd timeOut powerDown = { s with
      pc := s.npc, wdt := 0, status := setBit (setBit s.status Config.bitTO timeOut) Config.bitPD powerDown
      psc := if s.dev.prescalerFromPsa = true ∧ s.optionReg.getLsbD 3 = false then s.psc else 0 } := by
  rw [← pscAfterClear_eq]
  rfl

end Sys2Proof.Machine
end

section
/-! SETTLED: the statements about the literal and control instructions (42_literal_control.md). -/

namespace Sys2Proof.Proofs

open Sys2Proof.Machine

/-! ### Literal instructions -/

/-- Settles O21: `add8` and `sub8` in one line each, Z of the difference by the equality of its operands. -/
theorem addlwSublw : Obligations.AddlwSublw := by
  intro s k
  refine ⟨page_of rfl rfl rfl, loads_of_literalOp (exec_addlw s k) (add8_eq _ _),
    page_of rfl rfl rfl, loads_of_literalOp (exec_sublw s k) ((sub8_eq _ _).trans ?difference)⟩
  case difference => rw [FlagUpdate.arith, decide_eq_decide.2 sub_eq_zero]

/-- Settles O22: each is a result that affects Z alone, with the operands on which it is 0. -/
theorem literalLogic : Obligations.LiteralLogic := fun s k =>
  ⟨page_of rfl rfl rfl, loads_of_literalOp (exec_andlw s k) (resultZ_eq Iff.rfl),
    page_of rfl rfl rfl, loads_of_literalOp (exec_iorlw s k) (resultZ_eq BitVec.or_eq_zero_iff),
    page_of rfl rfl rfl, loads_of_literalOp (exec_xorlw s k) (resultZ_eq BitVec.xor_eq_zero_iff)⟩

/-- Settles O23. -/
theorem movlwLoads : Obligations.MovlwLoads := fun s k => ⟨page_of rfl rfl rfl, exec_movlw s k⟩

/-! ### Control transfer and the return stack -/

/-- Settles O24. -/
theorem gotoJumps : Obligations.GotoJumps := fun s k => ⟨page_of rfl rfl rfl, exec_goto s k⟩

/-- Settles O25: the next state is the push of the return address with another pc. -/
theorem callPushesAndJumps : Obligations.CallPushesAndJumps := by
  refine fun s k => ⟨page_of rfl rfl rfl, fun room => ?completes⟩
  case completes =>
    exact ⟨_, exec_call_mayPush k room, rfl, (pushed_entry s s.npc).of_stack rfl rfl rfl, rfl,
      outsideStack_of_transfer s _ _ _ _ _⟩

/-- Settles O26: each next state is the pop with TOS as the pc, with W loaded by `RETLW` and GIE set by `RETFIE`. -/
theorem returns : Obligations.Returns := by
  intro s
  have pop : PoppedEntry s s.popped := popped_entry s
  refine ⟨page_of rfl rfl rfl, page_of rfl rfl rfl, fun k => page_of rfl rfl rfl,
    fun mayPop => ⟨?ret, fun k => ?retlw, ?retfie⟩⟩
  case ret =>
    exact ⟨_, exec_ret_mayPop mayPop, rfl, pop.of_stack rfl rfl rfl, rfl, outsideStack_of_transfer s _ _ _ _ _⟩
  case retlw =>
    exact ⟨_, exec_retlw_mayPop k mayPop, rfl, pop.of_stack rfl rfl rfl, rfl, outsideStack_of_transfer s _ _ _ _ _⟩
  case retfie =>
    have hexec := exec_retfie_mayPop mayPop
    exact ⟨_, hexec, rfl, pop.of_stack rfl rfl rfl, rfl, setBit_gie s.intcon, outsideStack_of_retfie hexec⟩

/-- Settles O27: the push leaves an entry to pop, which is the return address, and the pop puts back every entry that
the push did not drive out. -/
theorem callThenReturn : Obligations.CallThenReturn := by
  intro s k room
  have mayPop : State.MayPop { s.pushed s.npc with pc := s.pageTarget k } := mayPop_pushed s.npc room
  refine ⟨_, _, exec_call_mayPush k room, exec_ret_mayPop mayPop, rfl, fun n v hn hv => ?entries, fun hroom => ?held,
    rfl, rfl, (outsideStack_of_transfer s _ _ _ _ _).files⟩
  case entries => exact popped_pushed_entry s.npc hn hv
  case held =>
    change min s.dev.stackDepth (s.held + 1) - 1 = s.held
    omega

/-! ### The watchdog and SLEEP -/

/-- Settles O30. -/
theorem clrwdtClears : Obligations.ClrwdtClears := by
  intro s
  refine ⟨page_of rfl rfl rfl, ?_⟩
  rw [exec_clrwdt, advance_clearWatchdog_setToPd, setBit_to_pd_set]

/-- Settles O31. -/
theorem sleepSleeps : Obligations.SleepSleeps := by
  intro s
  refine ⟨page_of rfl rfl rfl, ?_⟩
  rw [exec_sleep, advance_clearWatchdog_setToPd, setBit_to_set_pd_cleared]

end Sys2Proof.Proofs
end

section
/-! SUPPORT. `OPTION` and `TRIS` on a device that executes them (R190, R191, D13). -/

namespace Sys2Proof.Machine

/-- A device executes a port's `TRIS` where it has the instruction and the port (D13, R191). -/
theorem deviceHasTris_iff {dev : Device} {p : PortId} :
    deviceHasTris dev p = true ↔ dev.hasTris = true ∧ p ∈ dev.ports := by
  rw [deviceHasTris, Bool.and_eq_true, List.contains_iff_mem]

/-- `OPTION` is a write of W to OPTION_REG (R190). -/
theorem exec_option_of_hasOption {s : State} (h : s.dev.hasOption = true) :
    exec .option s = .next (s.advance.writeReg .optionReg s.w) := by
  rw [exec_option, execOption, if_pos h]

/-- `TRIS` is a write of W to the TRIS register of its operand's port (R191). -/
theorem exec_tris_of_hasTris {s : State} {f : BitVec 3} {p : PortId} (hf : trisPort f = some p)
    (htris : s.dev.hasTris = true) (hport : p ∈ s.dev.ports) :
    exec (.tris f) s = .next (s.advance.writeReg (.tris p) s.w) := by
  simp only [exec_tris, execTris, hf, if_pos (deviceHasTris_iff.2 ⟨htris, hport⟩)]

end Sys2Proof.Machine
end

section
/-! SETTLED: the statements about the legacy instructions (43_option_tris.md). -/

namespace Sys2Proof.Proofs

open Sys2Proof.Machine

/-- Settles O32: the write reaches OPTION_REG by its name, without an operand address. -/
theorem optionLoads : Obligations.OptionLoads := fun _ => ⟨page_of rfl rfl rfl, exec_option_of_hasOption⟩

/-- Settles O33: one write, with 5, 6 and 7 as the operands of port A, B and C. -/
theorem trisLoads : Obligations.TrisLoads := fun _ =>
  ⟨exec_tris_of_hasTris (f := 5) (p := .a) rfl, exec_tris_of_hasTris (f := 6) (p := .b) rfl,
    exec_tris_of_hasTris (f := 7) (p := .c) rfl⟩

end Sys2Proof.Proofs
end

section
/-! SUPPORT. The boundary case by case: what the device's updates keep beyond `afterUpdates_keeps` (R204), and what the
step does asleep and awake where no reset comes (R203, R205, R209, R211). -/

namespace Sys2Proof.Machine

/-! ### Device updates -/

/-- What every single update keeps, the updates of a whole boundary keep. -/
theorem afterUpdates_preserves {α : Type} {view : State → α} (s : State)
    (hevent : ∀ (t : State) e, view (t.applyEvent e) = view t)
    (hinputs : view { s with inputs := s.inputs.tail } = view s) : view s.afterUpdates = view s := by
  have hevents : ∀ (events : List DeviceEvent) (t : State), view (t.applyEvents events) = view t := by
    intro events
    induction events with
    | nil => exact fun _ => rfl
    | cons e rest ih => exact fun t => (ih (t.applyEvent e)).trans (hevent t e)
  exact (hevents _ _).trans hinputs

/-- An update of the interrupt flags is masked to INTCON<6:0>, so no update changes GIE. -/
theorem applyEvent_gie (s : State) (e : DeviceEvent) : (s.applyEvent e).gie = s.gie := by
  cases e with
  | pins p => simp [State.applyEvent, State.gie]
  | intconFlags set clear => simp [State.applyEvent, State.gie, Config.bitGIE]
  | timer0 | watchdog | prescaler => rfl

/-- The pins of a port change without its latch and TRIS. -/
theorem applyEvent_latch_tris (s : State) (e : DeviceEvent) (p : PortId) :
    ((s.applyEvent e).port p).latch = (s.port p).latch ∧ ((s.applyEvent e).port p).tris = (s.port p).tris := by
  cases e with
  | pins q =>
    by_cases h : p = q
    · subst h; simp [State.applyEvent]
    · simp [State.applyEvent, setPort_port_other _ _ _ _ h]
  | intconFlags | timer0 | watchdog | prescaler => cases p <;> exact ⟨rfl, rfl⟩

theorem afterUpdates_gie (s : State) : s.afterUpdates.gie = s.gie :=
  afterUpdates_preserves s applyEvent_gie rfl

theorem afterUpdates_latch (s : State) (p : PortId) : (s.afterUpdates.port p).latch = (s.port p).latch :=
  afterUpdates_preserves (view := fun t => (t.port p).latch) s (fun t e => (applyEvent_latch_tris t e p).1)
    (by cases p <;> rfl)

theorem afterUpdates_tris (s : State) (p : PortId) : (s.afterUpdates.port p).tris = (s.port p).tris :=
  afterUpdates_preserves (view := fun t => (t.port p).tris) s (fun t e => (applyEvent_latch_tris t e p).2)
    (by cases p <;> rfl)

@[simp] theorem afterUpdates_asleep (s : State) : s.afterUpdates.asleep = s.asleep := by
  obtain ⟨-, -, -, -, -, -, -, -, -, -, -, hasleep, -⟩ := afterUpdates_keeps s
  exact hasleep

theorem afterUpdates_stackEntry (s : State) (n : Nat) : s.afterUpdates.stackEntry n = s.stackEntry n := by
  obtain ⟨-, -, -, htos, hbelow, -⟩ := afterUpdates_keeps s
  rw [State.stackEntry, State.stackEntry, htos, hbelow]

/-- Updates make no room on the stack and take none. -/
theorem mayPush_afterUpdates {s : State} (h : s.MayPush) : s.afterUpdates.MayPush := by
  obtain ⟨-, -, -, -, -, hheld, -, -, -, -, -, -, -, hdev, -⟩ := afterUpdates_keeps s
  rwa [State.MayPush, hheld, hdev]

/-- A boundary without updates is only taken from the queue. -/
theorem afterUpdates_of_no_events {s : State} (h : s.nextBoundary.events = []) :
    s.afterUpdates = { s with inputs := s.inputs.tail } := by
  rw [State.afterUpdates, h]
  rfl

/-- With no boundary left nothing is updated. -/
theorem afterUpdates_of_no_inputs {s : State} (h : s.inputs = []) : s.afterUpdates = s := by
  have hevents : s.nextBoundary.events = [] := by rw [State.nextBoundary, h]; rfl
  exact (afterUpdates_of_no_events hevents).trans (afterQuiet_of_no_inputs h)

/-! ### The step from what its boundary leads to -/

theorem step_of_decided {s : State} {r : Result} (h : s.boundary = .decided r) : step s = r := by
  unfold step
  rw [h]

theorem step_of_runs {s t : State} {w : InstrWord} (h : s.boundary = .runs t) (hfetch : t.fetch = some w) :
    step s = exec (decode w) t := by
  unfold step
  rw [h]
  dsimp only
  rw [hfetch]

section
variable {s : State}

/-- Where no reset comes, a core that is awake stays so for the boundary (R203, R205, R209). -/
theorem boundary_of_awake (hmclr : s.nextBoundary.mclr = false) (hawake : s.asleep = false) :
    s.boundary = s.afterUpdates.boundaryAwake s.nextBoundary := by
  simp [State.boundary, hmclr, hawake]

/-- Where no reset comes, SLEEP decides what the boundary does (R211). -/
theorem boundary_of_asleep (hmclr : s.nextBoundary.mclr = false) (hasleep : s.asleep = true) :
    s.boundary = s.afterUpdates.boundaryAsleep s.nextBoundary := by
  simp [State.boundary, hmclr, hasleep]

/-- R205: a request with GIE set is taken. -/
theorem step_takes_request (hmclr : s.nextBoundary.mclr = false) (hwdt : s.nextBoundary.wdt = false)
    (hawake : s.asleep = false) (hirq : s.nextBoundary.irq = true) (hgie : s.afterUpdates.gie = true) :
    step s = s.afterUpdates.takeInterrupt := by
  refine step_of_decided ?_
  simp [boundary_of_awake hmclr hawake, State.boundaryAwake, hwdt, hirq, hgie]

/-- R203: without a request, or with GIE clear, the instruction runs. -/
theorem step_runs_awake {w : InstrWord} (hmclr : s.nextBoundary.mclr = false) (hwdt : s.nextBoundary.wdt = false)
    (hawake : s.asleep = false) (hmasked : s.nextBoundary.irq = false ∨ s.afterUpdates.gie = false)
    (hfetch : s.afterUpdates.fetch = some w) : step s = exec (decode w) s.afterUpdates := by
  have hnot : (s.nextBoundary.irq && s.afterUpdates.gie) = false := Bool.and_eq_false_iff.2 hmasked
  refine step_of_runs ?_ hfetch
  simp only [boundary_of_awake hmclr hawake, State.boundaryAwake, hwdt, hnot, Bool.false_eq_true, ↓reduceIte]

/-- R211: asleep without an event, the core waits. -/
theorem step_waits (hmclr : s.nextBoundary.mclr = false) (hasleep : s.asleep = true)
    (hwdt : s.nextBoundary.wdt = false) (hirq : s.nextBoundary.irq = false) : step s = .next s.afterUpdates := by
  refine step_of_decided ?_
  simp [boundary_of_asleep hmclr hasleep, State.boundaryAsleep, hwdt, hirq]

/-- R211: a request wakes the core, whatever GIE is. -/
theorem step_wakes_by_request {w : InstrWord} (hmclr : s.nextBoundary.mclr = false) (hasleep : s.asleep = true)
    (hwdt : s.nextBoundary.wdt = false) (hirq : s.nextBoundary.irq = true)
    (hfetch : s.afterUpdates.fetch = some w) : step s = exec (decode w) s.afterUpdates.awake := by
  refine step_of_runs ?_ hfetch
  simp [boundary_of_asleep hmclr hasleep, State.boundaryAsleep, hwdt, hirq]

/-- R209: a time-out wakes the core, whether or not a request comes with it. -/
theorem step_wakes_by_watchdog {w : InstrWord} (hmclr : s.nextBoundary.mclr = false) (hasleep : s.asleep = true)
    (hwdt : s.nextBoundary.wdt = true) (hfetch : s.afterUpdates.fetch = some w) :
    step s = exec (decode w) s.afterUpdates.wokenByWatchdog := by
  refine step_of_runs ?_ hfetch
  simp [boundary_of_asleep hmclr hasleep, State.boundaryAsleep, hwdt]

end

/-- TO and PD cleared, as waking by the watchdog leaves them (R209). -/
theorem setBit_to_pd_cleared (v : Byte) : setBit (setBit v Config.bitTO false) Config.bitPD false = v &&& 0xE7 :=
  BitVec.and_assoc v (~~~0x10) (~~~0x08)

theorem wokenByWatchdog_eq (s : State) :
    s.wokenByWatchdog = { s with asleep := false, status := s.status &&& 0xE7 } := by
  rw [← setBit_to_pd_cleared]
  rfl

/-! ### The end of a run (D17) -/

/-- A `GOTO` to itself changes nothing. -/
theorem exec_goto_self {s : State} {k : BitVec 11} (h : s.pageTarget k = s.pc) : exec (.goto k) s = .next s := by
  rw [exec_goto, h]

theorem afterUpdates_pageTarget (s : State) (k : BitVec 11) : s.afterUpdates.pageTarget k = s.pageTarget k := by
  obtain ⟨-, -, hpclath, -⟩ := afterUpdates_keeps s
  rw [State.pageTarget, State.pageTarget, hpclath]

/-- The updates of a boundary leave a run over that was over. -/
theorem halted_afterUpdates {s : State} (h : s.Halted) : s.afterUpdates.Halted := by
  obtain ⟨-, hpc, -⟩ := afterUpdates_keeps s
  obtain ⟨hnothing, hover⟩ := h
  refine ⟨nothingComes_afterUpdates hnothing, ?_⟩
  rwa [afterUpdates_asleep, afterUpdates_fetch, hpc, funext (afterUpdates_pageTarget s)]

/-- The step of a run that is over waits, or runs the `GOTO` to itself; nothing else is left. -/
theorem step_of_halted {s : State} (h : s.Halted) : step s = .next s.afterUpdates := by
  obtain ⟨hnothing, hover⟩ := h
  obtain ⟨hirq, hwdt, hmclr⟩ := nextBoundary_of_nothingComes hnothing
  cases hasleep : s.asleep with
  | true => exact step_waits hmclr hasleep hwdt hirq
  | false =>
    obtain ⟨w, k, hfetch, hgoto, htarget⟩ := hover.resolve_left (by simp [hasleep])
    obtain ⟨-, hpc, -⟩ := afterUpdates_keeps s
    have hself : s.afterUpdates.pageTarget k = s.afterUpdates.pc := by rw [afterUpdates_pageTarget, htarget, hpc]
    calc step s = exec (decode w) s.afterUpdates :=
          step_runs_awake hmclr hwdt hasleep (.inl hirq) ((afterUpdates_fetch s).trans hfetch)
      _ = .next s.afterUpdates := by rw [hgoto, exec_goto_self hself]

end Sys2Proof.Machine
end

section
/-! SUPPORT. Interrupt entry where the stack has room (R205) and the return from it (R207). -/

namespace Sys2Proof.Machine

/-- The state after interrupt entry: the pc pushed, GIE cleared, the pc at INT_VECTOR (R205). -/
def State.enterInterrupt (s : State) : State := { (s.pushed s.pc).setGie false with pc := s.dev.intVector }

/-- Interrupt entry is the step's whole effect on the state after the updates. -/
theorem step_takesInterrupt {s : State} (h : s.TakesInterrupt) : step s = .next s.afterUpdates.enterInterrupt := by
  obtain ⟨hmclr, hwdt, hirq, hawake, hgie, hroom⟩ := h
  exact (step_takes_request hmclr hwdt hawake hirq hgie).trans (takeInterrupt_mayPush (mayPush_afterUpdates hroom))

/-- Entry pushes the pc. -/
theorem enterInterrupt_pushedEntry (s : State) : PushedEntry s s.enterInterrupt s.pc :=
  (pushed_entry s s.pc).of_stack rfl rfl rfl

/-- Entry leaves all but the pc, the stack and INTCON alone. -/
theorem outsideStack_of_enterInterrupt (s : State) : OutsideStack .intcon s s.enterInterrupt where
  status := rfl
  files := .of_eq nofun rfl rfl rfl rfl rfl (fun hne => absurd rfl hne) rfl rfl rfl
  program := rfl
  wdt := rfl
  asleep := rfl
  inputs := rfl
  dev := rfl
  draws := rfl

/-- Clearing GIE clears INTCON<7> and no other bit (R40). -/
theorem setBit_gie_cleared (v : Byte) : setBit v Config.bitGIE false = v &&& 0x7F := rfl

/-- A bit that was set, cleared and set again leaves the byte as it was. -/
theorem setBit_true_setBit_false {v : Byte} {i : Nat} (hi : i < 8) (h : v.getLsbD i = true) :
    setBit (setBit v i false) i true = v := by
  apply BitVec.eq_of_getLsbD_eq
  intro j _
  rw [getLsbD_setBit _ _ _ _ hi, getLsbD_setBit _ _ _ _ hi]
  by_cases hj : j = i
  · rw [if_pos hj, hj, h]
  · rw [if_neg hj, if_neg hj]

/-- After entry there is an entry to pop: the interrupted pc. -/
theorem exec_retfie_enterInterrupt {s : State} (h : s.MayPush) :
    exec .retfie s.enterInterrupt = .next { s.enterInterrupt.popped.setGie true with pc := s.pc } :=
  exec_retfie_mayPop (s := s.enterInterrupt) (mayPop_pushed s.pc h)

end Sys2Proof.Machine
end

section
/-! SUPPORT. That an instruction answers a next state where no parameter of the device stops it (R200, R208). -/

namespace Sys2Proof.Machine

theorem writtenReg_eq_pcl_iff {r : FileReg} {d : Dest} : writtenReg r d = .pcl ↔ d = .file ∧ r = .pcl := by
  cases d <;> simp [writtenReg]

/-- `DECFSZ` and `INCFSZ` run wherever no result 0 goes to PCL (U6). -/
theorem fileSkipOp_runs {s : State} {f : FileField} {d : Dest} {op : Byte → Byte} (allows : s.Allows f)
    (hpcl : d = .file → s.resolve f = .pcl → op (s.operand f) ≠ 0) : ∃ t, s.fileSkipOp f d op = .next t := by
  by_cases hv : op (s.operand f) = 0
  · have hp : writtenReg (s.resolve f) d ≠ .pcl := fun h => by
      obtain ⟨hd, hr⟩ := writtenReg_eq_pcl_iff.1 h
      exact hpcl hd hr hv
    exact ⟨_, fileSkipOp_skips allows hv hp⟩
  · exact ⟨_, fileSkipOp_goes_on allows hv⟩

/-- The operand of a well-formed `TRIS` names a port (R191). -/
theorem trisPort_of_isTrisOperand {f : BitVec 3} (h : isTrisOperand f = true) : ∃ p, trisPort f = some p := by
  have hlow : 5 ≤ f.toNat := of_decide_eq_true h
  have hport : f = 5#3 ∨ f = 6#3 ∨ f = 7#3 := by bv_omega
  rcases hport with rfl | rfl | rfl
  · exact ⟨.a, rfl⟩
  · exact ⟨.b, rfl⟩
  · exact ⟨.c, rfl⟩

end Sys2Proof.Machine
end

section
/-! SETTLED: the statements about interrupts, SLEEP, the device's updates and the end of a run (60_exceptions.md). -/

namespace Sys2Proof.Proofs

open Sys2Proof.Machine

/-! ### Device updates -/

/-- Settles O49: `afterUpdates_keeps`, with GIE kept by the mask of the flag updates and a port's latch and TRIS by the
update of its pins. -/
theorem deviceUpdates : Obligations.DeviceUpdates := by
  intro s
  obtain ⟨hw, hpc, hpclath, -, -, hheld, hstatus, hfsr, hoptionReg, hram, hprogram, hasleep, hinputs, hdev, -⟩ :=
    afterUpdates_keeps s
  exact ⟨hw, hpc, hpclath, afterUpdates_stackEntry s, hheld, hstatus, hfsr, afterUpdates_gie s, hoptionReg,
    fun p => ⟨afterUpdates_latch s p, afterUpdates_tris s p⟩, hram, hprogram, hasleep, hdev, hinputs⟩

/-! ### Interrupts -/

/-- Settles O45. -/
theorem maskedInterruptWaits : Obligations.MaskedInterruptWaits := fun _ _ hmclr hwdt hawake hmasked hfetch =>
  step_runs_awake hmclr hwdt hawake hmasked hfetch

/-- Settles O44: the next state is the entry in the state after the updates. -/
theorem interruptEntry : Obligations.InterruptEntry := by
  intro s h
  obtain ⟨hw, hpc, -, -, -, -, -, -, -, -, -, -, -, hdev, -⟩ := afterUpdates_keeps s
  have hvector : s.afterUpdates.enterInterrupt.pc = s.dev.intVector := congrArg Device.intVector hdev
  exact ⟨_, step_takesInterrupt h, hvector, hpc ▸ enterInterrupt_pushedEntry s.afterUpdates,
    setBit_gie_cleared s.afterUpdates.intcon, hw, outsideStack_of_enterInterrupt s.afterUpdates⟩

/-- Settles O46: the pop puts back every entry that the entry's push did not drive out, and GIE, which was set, is set
again. -/
theorem interruptThenRetfie : Obligations.InterruptThenRetfie := by
  intro s h
  obtain ⟨hw, hpc, hpclath, -, -, hheld, hstatus, hfsr, -, hram, -, -, -, hdev, -⟩ := afterUpdates_keeps s
  refine ⟨_, _, step_takesInterrupt h, exec_retfie_enterInterrupt (mayPush_afterUpdates h.room), hpc,
    setBit_true_setBit_false (by decide) h.gie, fun n v hn hv => ?entries, fun hroom => ?held, hw, hstatus, hpclath,
    hfsr, fun a => congrArg (fun m => Memory.read m a) hram⟩
  case entries =>
    rw [← hdev] at hn
    exact popped_pushed_entry s.afterUpdates.pc hn ((afterUpdates_stackEntry s n).trans hv)
  case held =>
    change min s.afterUpdates.dev.stackDepth (s.afterUpdates.held + 1) - 1 = s.held
    rw [hdev, hheld]
    omega

/-! ### SLEEP -/

/-- Settles O47. -/
theorem sleepWaitsAndWakes : Obligations.SleepWaitsAndWakes := by
  intro s hasleep hmclr
  refine ⟨fun hwdt hirq => ⟨step_waits hmclr hasleep hwdt hirq, (afterUpdates_asleep s).trans hasleep⟩,
    fun w hfetch => ⟨fun hwdt hirq => step_wakes_by_request hmclr hasleep hwdt hirq hfetch, fun hwdt => ?timeOut⟩⟩
  case timeOut =>
    obtain ⟨-, -, -, -, -, -, hstatus, -⟩ := afterUpdates_keeps s
    rw [step_wakes_by_watchdog hmclr hasleep hwdt hfetch, wokenByWatchdog_eq, hstatus]

/-! ### Running on, and the end of a run -/

/-- Settles O58: an operand is allowed, a push and a pop go on, and `OPTION` and `TRIS` find what they name. -/
theorem everyInstructionRuns : Obligations.EveryInstructionRuns := by
  intro i s hwf hdev hreserved hdecfsz hincfsz
  obtain ⟨readsZero, wraps, hasOption, hasTris, ports⟩ := hdev
  have allows : ∀ f, s.Allows f := fun f => allows_of_readsZero f readsZero
  cases i with
  | addwf f d | andwf f d | comf f d | decf f d | incf f d | iorwf f d | movf f d | swapf f d | xorwf f d =>
    exact ⟨_, fileOp_allowed d _ (allows f)⟩
  | subwf f d => exact ⟨_, fileOp_allowed d (fun a => sub8 a s.w) (allows f)⟩
  | rlf f d => exact ⟨_, fileOp_allowed d (fun a => rotateLeft8 a s.flagC) (allows f)⟩
  | rrf f d => exact ⟨_, fileOp_allowed d (fun a => rotateRight8 a s.flagC) (allows f)⟩
  | clrf f | movwf f => exact ⟨_, fileStore_allowed _ (allows f)⟩
  | bcf f b | bsf f b => exact ⟨_, bitOp_allowed b _ (allows f)⟩
  | btfsc f b | btfss f b => exact ⟨_, bitTest_allowed b _ (allows f)⟩
  | decfsz f d =>
    rw [exec_decfsz]
    exact fileSkipOp_runs (allows f) fun hd hr => mt (sub_one_eq_zero_iff _).1 (hdecfsz f (by rw [hd]) hr)
  | incfsz f d =>
    rw [exec_incfsz]
    exact fileSkipOp_runs (allows f) fun hd hr => mt (add_one_eq_zero_iff _).1 (hincfsz f (by rw [hd]) hr)
  | call k => exact ⟨_, exec_call_mayPush k (.inl wraps)⟩
  | ret => exact ⟨_, exec_ret_mayPop (.inl wraps)⟩
  | retlw k => exact ⟨_, exec_retlw_mayPop k (.inl wraps)⟩
  | retfie => exact ⟨_, exec_retfie_mayPop (.inl wraps)⟩
  | option => exact ⟨_, exec_option_of_hasOption hasOption⟩
  | tris f =>
    obtain ⟨p, hp⟩ := trisPort_of_isTrisOperand hwf
    exact ⟨_, exec_tris_of_hasTris hp hasTris (ports p)⟩
  | reserved w => exact absurd rfl (hreserved w)
  | clrw | nop | addlw k | andlw k | clrwdt | goto k | iorlw k | movlw k | sleep | sublw k | xorlw k =>
    exact ⟨_, rfl⟩

/-- Settles O59. -/
theorem haltedStays : Obligations.HaltedStays := by
  intro s h
  have hstep : step s = .next s.afterUpdates := step_of_halted h
  refine ⟨hstep, halted_afterUpdates h, fun hevents => ?_, fun hinputs => ?_⟩
  · rw [hstep, afterUpdates_of_no_events hevents]
  · rw [hstep, afterUpdates_of_no_inputs hinputs]

end Sys2Proof.Proofs
end

section
/-! SUPPORT. Resets after power-on (R230): the values of R47, and the steps that end in a reset (R206, R209). -/

namespace Sys2Proof.Machine

/-! ### The values after a reset (R47) -/

/-- The bank bits 0, TO and PD by the cause, Z, DC and C free (R47, R230). -/
theorem statusAfterReset_upper (flags : Byte) (timeOut powerDown : Bool) :
    (statusAfterReset flags timeOut powerDown).extractLsb' 3 5 =
      0#3 ++ BitVec.ofBool timeOut ++ BitVec.ofBool powerDown := by
  apply BitVec.eq_of_getLsbD_eq
  intro n hn
  rw [BitVec.getLsbD_extractLsb', statusAfterReset, getLsbD_setBit _ _ _ _ (by decide),
    getLsbD_setBit _ _ _ _ (by decide), BitVec.getLsbD_append, BitVec.getLsbD_append]
  interval_cases n <;> simp

/-- Of INTCON only bit 0 is free (R47). -/
theorem and_one_upper (v : Byte) : (v &&& 0x01).extractLsb' 1 7 = 0 := by
  apply BitVec.eq_of_getLsbD_eq
  intro n hn
  simp [BitVec.getLsbD_one]

/-- A reset at a boundary leaves the values of R47, whatever the boundary's updates were. -/
theorem afterReset_warmReset (s : State) (timeOut powerDown : Bool) :
    AfterReset s (s.afterUpdates.warmReset timeOut powerDown) timeOut powerDown := by
  obtain ⟨-, -, -, -, -, -, -, -, -, hram, hprogram, -, hinputs, hdev, -⟩ := afterUpdates_keeps s
  exact
    { pc := congrArg Device.resetVector hdev, pclath := rfl, status := statusAfterReset_upper _ timeOut powerDown,
      intcon := and_one_upper _, optionReg := rfl, tris := fun p => by cases p <;> rfl, held := rfl, wdt := rfl,
      psc := rfl, asleep := rfl, ram := hram, program := hprogram, dev := hdev, inputs := hinputs }

/-! ### The steps that end in a reset -/

section
variable {s : State}

/-- R209: a time-out of a core that is awake resets it. -/
theorem step_resets_by_watchdog (hmclr : s.nextBoundary.mclr = false) (hwdt : s.nextBoundary.wdt = true)
    (hawake : s.asleep = false) : step s = .next (s.afterUpdates.warmReset false true) := by
  refine step_of_decided ?_
  simp [boundary_of_awake hmclr hawake, State.boundaryAwake, hwdt, State.watchdogReset]

/-- R206: the external reset overrides whatever else the boundary brings. -/
theorem step_resets_by_mclr (hmclr : s.nextBoundary.mclr = true) : step s = .next s.afterUpdates.mclrReset :=
  step_of_decided (if_pos hmclr)

/-- R230: during SLEEP the external reset leaves TO set and PD cleared. -/
theorem afterUpdates_mclrReset_of_asleep (hasleep : s.asleep = true) :
    s.afterUpdates.mclrReset = s.afterUpdates.warmReset true false :=
  if_pos ((afterUpdates_asleep s).trans hasleep)

/-- R230: in normal operation the external reset leaves TO and PD as they were. -/
theorem afterUpdates_mclrReset_of_awake (hawake : s.asleep = false) :
    s.afterUpdates.mclrReset = s.afterUpdates.warmReset s.flagTO s.flagPD := by
  obtain ⟨-, -, -, -, -, -, hstatus, -⟩ := afterUpdates_keeps s
  simp [State.mclrReset, hawake, State.flagTO, State.flagPD, hstatus]

end

end Sys2Proof.Machine
end

section
/-! SUPPORT. The cycles of R239 beside the pc of the next state, shape by shape, for an instruction that does not store
to PCL. -/

namespace Sys2Proof.Machine

/-- One cycle, and the pc moves on by one word. -/
def GoesOn (n : Nat) (s t : State) : Prop := n = 1 ∧ t.pc = s.npc

/-- Two cycles, and the pc moves on by one word more. -/
def Skips (n : Nat) (s t : State) : Prop := n = 2 ∧ t.pc = s.npc + 1

section
variable {s t : State} {f : FileField} {d : Dest}

theorem fileOpCycles_of_ne_pcl (hp : writtenReg (s.resolve f) d ≠ .pcl) : s.fileOpCycles f d = 1 :=
  (fileOpCycles_eq_cyclesTo s f d).trans (if_neg hp)

theorem fileOp_goesOn {op : Byte → Alu} (hp : writtenReg (s.resolve f) d ≠ .pcl) (h : s.fileOp f d op = .next t) :
    GoesOn (s.fileOpCycles f d) s t := by
  obtain ⟨-, rfl⟩ := fileOp_next h
  exact ⟨fileOpCycles_of_ne_pcl hp, (delivered s f d _ _).2 hp⟩

theorem fileStore_goesOn {out : Alu} (hp : s.resolve f ≠ .pcl) (h : s.fileStore f out = .next t) :
    GoesOn (s.fileOpCycles f .file) s t := by
  obtain ⟨-, rfl⟩ := fileStore_next h
  exact ⟨fileOpCycles_of_ne_pcl hp, (delivered s f .file _ _).2 hp⟩

theorem bitOp_goesOn {b : BitField} {value : Bool} (hp : s.resolve f ≠ .pcl) (h : s.bitOp f b value = .next t) :
    GoesOn (s.fileOpCycles f .file) s t := by
  obtain ⟨-, rfl⟩ := bitOp_next h
  exact ⟨fileOpCycles_of_ne_pcl hp, (delivered_plain s f .file _).2 hp⟩

/-- The skip of `DECFSZ` and `INCFSZ` on a result 0 is their second cycle (R151). -/
theorem fileSkipOp_goesOn_or_skips {op : Byte → Byte} (hp : writtenReg (s.resolve f) d ≠ .pcl)
    (h : s.fileSkipOp f d op = .next t) :
    GoesOn (s.fileSkipCycles f d op) s t ∨ Skips (s.fileSkipCycles f d op) s t := by
  have hpc (v : Byte) : (s.advance.writeDest (s.resolve f) d v).pc = s.npc := (delivered_plain s f d v).2 hp
  rcases (fileSkipOp_next h).2 with ⟨hv, rfl⟩ | ⟨hv, -, rfl⟩
  · exact .inl ⟨(if_neg hv).trans (fileOpCycles_of_ne_pcl hp), hpc _⟩
  · exact .inr ⟨if_pos hv, congrArg (· + 1) (hpc _)⟩

/-- The skip of `BTFSC` and `BTFSS` is their second cycle (R151). -/
theorem bitTest_goesOn_or_skips {b : BitField} {skipWhen : Bool} (h : s.bitTest f b skipWhen = .next t) :
    GoesOn (s.bitTestCycles f b skipWhen) s t ∨ Skips (s.bitTestCycles f b skipWhen) s t := by
  obtain ⟨-, rfl⟩ := bitTest_next h
  by_cases hb : (s.operand f).getLsbD b.toNat = skipWhen
  · rw [if_pos hb]
    exact .inr ⟨if_pos hb, rfl⟩
  · rw [if_neg hb]
    exact .inl ⟨if_neg hb, rfl⟩

end

/-- `OPTION` writes OPTION_REG and moves on (R190). -/
theorem pc_of_option {s t : State} (h : exec .option s = .next t) : t.pc = s.npc := by
  rw [exec_option, execOption] at h
  split at h
  · injection h with h
    subst h
    exact writeReg_pc_of_ne s.advance _ _ nofun
  · cases h

/-- `TRIS` writes a TRIS register and moves on (R191). -/
theorem pc_of_tris {s t : State} {f : BitVec 3} (h : exec (.tris f) s = .next t) : t.pc = s.npc := by
  rw [exec_tris, execTris] at h
  split at h
  · cases h
  · split at h
    · injection h with h
      subst h
      exact writeReg_pc_of_ne s.advance _ _ nofun
    · cases h

/-- The control transfers among the instructions of two cycles (R239). -/
def IsTransfer (i : Instr) : Prop :=
  (∃ k, i = .goto k) ∨ (∃ k, i = .call k) ∨ i = .ret ∨ (∃ k, i = .retlw k) ∨ i = .retfie

/-- Where PCL is not stored to, the cycles tell how the pc moves (R239). -/
theorem goesOn_or_skips_or_transfers {i : Instr} {s t : State}
    (hpcl : ∀ f, storesTo i = some f → s.resolve f ≠ .pcl) (h : exec i s = .next t) :
    GoesOn (cycles i s) s t ∨ Skips (cycles i s) s t ∨ cycles i s = 2 ∧ IsTransfer i := by
  have written {f d} (hs : storesTo i = if d = .file then some f else none) : writtenReg (s.resolve f) d ≠ .pcl :=
    writtenReg_ne_of_storesTo hs nofun hpcl
  cases i with
  | addwf f d | andwf f d | comf f d | decf f d | incf f d | iorwf f d | movf f d | swapf f d | xorwf f d =>
    exact .inl (fileOp_goesOn (written rfl) h)
  | rlf f d => rw [exec_rlf] at h; exact .inl (fileOp_goesOn (written rfl) h)
  | rrf f d => rw [exec_rrf] at h; exact .inl (fileOp_goesOn (written rfl) h)
  | subwf f d => rw [exec_subwf] at h; exact .inl (fileOp_goesOn (written rfl) h)
  | clrf f | movwf f => exact .inl (fileStore_goesOn (hpcl f rfl) h)
  | bcf f b | bsf f b => exact .inl (bitOp_goesOn (hpcl f rfl) h)
  | decfsz f d => rw [exec_decfsz] at h; exact (fileSkipOp_goesOn_or_skips (written rfl) h).imp_right .inl
  | incfsz f d => rw [exec_incfsz] at h; exact (fileSkipOp_goesOn_or_skips (written rfl) h).imp_right .inl
  | btfsc f b | btfss f b => exact (bitTest_goesOn_or_skips h).imp_right .inl
  | clrw | nop | addlw k | andlw k | clrwdt | iorlw k | movlw k | sleep | sublw k | xorlw k =>
    cases h
    exact .inl ⟨rfl, rfl⟩
  | option => exact .inl ⟨rfl, pc_of_option h⟩
  | tris f => exact .inl ⟨rfl, pc_of_tris h⟩
  | goto k | call k | ret | retlw k | retfie => exact .inr (.inr ⟨rfl, by simp [IsTransfer]⟩)
  | reserved w => cases h

end Sys2Proof.Machine
end

section
/-! SETTLED: the statements about resets and the timing of instructions (70_reset_and_hazards.md). -/

namespace Sys2Proof.Proofs

open Sys2Proof.Machine

/-! ### Resets -/

/-- Settles O48: each of the three boundaries ends in `warmReset` of the updated state, with TO and PD by its cause. -/
theorem resets : Obligations.Resets := by
  intro s
  refine ⟨fun hmclr hwdt hawake => ⟨_, step_resets_by_watchdog hmclr hwdt hawake, afterReset_warmReset s _ _⟩,
    fun hmclr hasleep => ⟨_, step_resets_by_mclr hmclr, ?asleep⟩,
    fun hmclr hawake => ⟨_, step_resets_by_mclr hmclr, ?running⟩⟩
  case asleep =>
    rw [afterUpdates_mclrReset_of_asleep hasleep]
    exact afterReset_warmReset s _ _
  case running =>
    rw [afterUpdates_mclrReset_of_awake hawake]
    exact afterReset_warmReset s _ _

/-! ### Cycles -/

/-- Settles O57: a store to PCL has its second cycle whatever the instruction; where PCL is not stored to, a second
cycle is a transfer's or a skip's. -/
theorem cyclesAndThePc : Obligations.CyclesAndThePc := by
  intro i s t hexec
  by_cases hpcl : ∃ f, storesTo i = some f ∧ s.resolve f = .pcl
  case pos =>
    have htwo : cycles i s = 2 := by
      obtain ⟨f, hs, hf⟩ := hpcl
      exact cycles_of_storesTo_pcl hs hf
    exact .inr ⟨htwo, by simp [hpcl]⟩
  case neg =>
    have hne : ∀ f, storesTo i = some f → s.resolve f ≠ .pcl := fun f hs hf => hpcl ⟨f, hs, hf⟩
    rcases goesOn_or_skips_or_transfers hne hexec with hgoesOn | ⟨htwo, hpc⟩ | ⟨htwo, htransfer⟩
    · exact .inl hgoesOn
    · exact .inr ⟨htwo, by simp [hpc]⟩
    · unfold IsTransfer at htransfer
      exact .inr ⟨htwo, by tauto⟩

end Sys2Proof.Proofs
end
